-- ==== Sys2Proof/Word.lean ====
section
/-! DEFINITION. The block's words and the raw forms in which anything reaches the block: host accesses, command words,
event labels, encoder port words (spec/30_encoding.md R80), and the turns and host statements that offer them. -/

namespace Sys2Proof

/-- A value of W = 32 bits: counter, reload register, buffer word, duration, capture register (00_scope R8, 92 D2);
also a duty accumulator, DUTY_W = 32 (92 D7), and a host data word (20_memory R66). -/
abbrev Word := BitVec 32

/-- One byte lane of the 4-byte host data bus (20_memory R64). -/
abbrev Byte := BitVec 8

/-- A line level: `true` is 1, high (the keyed level), `false` is 0, low (the idle level) (00_scope R12). -/
abbrev Level := Bool

/-- The direction of a host access, bit 12 of a descriptor (30_encoding R81). -/
inductive Dir where
  | read
  | write
deriving DecidableEq, Repr, Inhabited

/-- The registers of the map of 30_encoding R82. -/
inductive Reg where
  | cmd
  | status
  | cfg
  | arr
  | dmaIdx
  | dutyHigh
  | dutyLow
  | mwAcc
  | capDelta
  | capCcr1
  | capCcr2
  | cnt
  | buf (i : Nat)
deriving DecidableEq, Repr, Inhabited

/-- A host access. -/
inductive Access where
  /-- A 4-byte access inside the block's window by its 13-bit descriptor (30_encoding R81); `v` is the data of a write (log 21). -/
  | desc (d : BitVec 13) (v : Word)
  /-- `MemRead(addr, n)` at a bus address (20_memory R63, 43_host_access R190). -/
  | load (addr size : Nat)
  /-- `MemWrite(addr, n, v)` at a bus address as the bytes on the bus, byte k for address `addr` + k (20_memory R64); n
  is their number (log 21). -/
  | store (addr : Nat) (bytes : List Byte)
deriving DecidableEq, Repr, Inhabited

/-- One word of the encoder port (30_encoding R90). -/
structure EncWord where
  kind : BitVec 2
  level : Level
  duration : Word
deriving DecidableEq, Repr, Inhabited

/-- An encoded step, one constructor per input format of 30_encoding R80. -/
inductive Packet where
  /-- A command word written to CMD (30_encoding R83). -/
  | cmd (w : Word)
  /-- A host access (30_encoding R81). -/
  | mmio (a : Access)
  /-- The host's completion query, a read of descriptor 0x0004 of which the host takes bit 3 (41_tx_pipeline R138).
  DESIGN CHOICE, safe (log 12): it shares its descriptor with RD STATUS, so it is kept apart by its form. -/
  | txQuery
  /-- An internal event label and, for the edges, its operand (30_encoding R94). -/
  | event (code : BitVec 4) (k : Word)
  /-- An encoder port word, taken by the pull that reads it (30_encoding R90). -/
  | encoder (w : EncWord)
deriving DecidableEq, Repr, Inhabited

/-- A turn of one agent (00_scope R7). -/
inductive Turn where
  | host
  | timerDma
  | feeder
  | fall (k : Word)
  | rise (k : Word)
deriving DecidableEq, Repr, Inhabited

/-- One entry of the agenda: a step given in its encoding, or a turn of an agent. -/
inductive Slot where
  | fetch (p : Packet)
  | turn (t : Turn)
deriving DecidableEq, Repr, Inhabited

/-- One statement of a host program (30_encoding R97); a label is the number of the statement it names, a variable a
number. -/
inductive HostStmt where
  | wr (r : Reg) (v : Word)
  | rd (r : Reg) (var : Nat)
  | bne (var : Nat) (mask value : Word) (label : Nat)
  | beq (var : Nat) (mask value : Word) (label : Nat)
  | end_
deriving DecidableEq, Repr, Inhabited

end Sys2Proof
end

