-- ==== Sys2Proof/Config.lean ====
section
/-! DEFINITION. The implementation parameters (spec/00_scope.md R8) and what the spec leaves to the outside world or
leaves unspecified, as constants without a body: nothing can be proved of a value of theirs. -/

namespace Sys2Proof

/-- What UPDATE does at a half whose refill has not finished (00_scope R8, 92 D8). -/
inductive UnderrunPolicy where
  | hold
  | fault
deriving DecidableEq, Repr, Inhabited

/-- A feeder fill is the pre-fill of START_TX or a refill of one half (10_state R36). -/
inductive FillKind where
  | prefill
  | refill
deriving DecidableEq, Repr, Inhabited

/-- A half of the reload buffer: `first` is 0, `second` is 1 (10_state R29, R36). -/
inductive Half where
  | first
  | second
deriving DecidableEq, Repr, Inhabited

/-- The parameters of 00_scope R8 that are not fixed by the types (W = DUTY_W = 32 are). N is even, so it is kept as
its half H. -/
structure Params where
  /-- H, half the buffer length. -/
  half : Nat
  /-- GUARD, the guard time a wait marker adds. -/
  guardTime : Word
  /-- LEAD, the reload value loaded when the timer is armed. -/
  lead : Word
  /-- RX_WRAP, the number of counter states in receive mode. -/
  rxWrap : Nat
  /-- UNDERRUN_POLICY. -/
  policy : UnderrunPolicy
  /-- BASE, the host address of the register block. -/
  base : Nat
deriving DecidableEq, Repr

/-- N, the reload buffer length in words (00_scope R8). -/
def Params.n (p : Params) : Nat := 2 * p.half

/-- The constraints of 00_scope R8. -/
abbrev Params.wf (p : Params) : Prop :=
  1 ≤ p.half ∧ p.half ≤ 128 ∧ p.lead ≠ 0 ∧ 2 ≤ p.rxWrap ∧ p.rxWrap ≤ 2 ^ 32 ∧ p.base % 4096 = 0

namespace Config

/-! The OPEN parameters (92 D3 to D6, D9; log 10). Each constant ranges over exactly the values R8 admits. -/

/-- H - 1. -/
opaque halfLessOne : Fin 128
/-- GUARD. -/
opaque guardTime : Word
/-- LEAD - 1. -/
opaque leadLessOne : Fin 4294967295
/-- RX_WRAP - 2. -/
opaque rxWrapLessTwo : Fin 4294967295
/-- BASE / 4096. -/
opaque basePage : Nat

/-- This hardware's parameters: the OPEN ones uninterpreted, UNDERRUN_POLICY = hold as 92 D8 decides. -/
def params : Params where
  half := halfLessOne.val + 1
  guardTime := guardTime
  lead := BitVec.ofNat 32 (leadLessOne.val + 1)
  rxWrap := rxWrapLessTwo.val + 2
  policy := .hold
  base := 4096 * basePage

/-! The oracles and the outside world (10_state R45). -/

/-- DRAW (10_state R51): the free value of the n-th draw (log 7). -/
opaque draw : Nat → Word
/-- The ENCODER stream (10_state R47): the port word of position n (log 5). -/
opaque encoder : Nat → EncWord
/-- The CHIP oracle (10_state R50): whether the n-th request is answered OK or PASS (log 6). -/
opaque chip : Nat → Bool
/-- The schedule (00_scope R7, "Any enabled step of any agent may be taken next"): the n-th free turn (log 3). -/
opaque schedule : Nat → Turn
/-- The host program (10_state R45, log 4). -/
opaque hostProgram : List HostStmt

/-! The reset values 10_state R53 leaves unspecified (log 9). -/

opaque resetArr : Word
opaque resetFillKind : FillKind
opaque resetFillPos : Nat
opaque resetFillEnd : Nat
opaque resetFillHalf : Half

end Config

end Sys2Proof
end

