-- ==== Sys2Proof/Syntax.lean ====
section
/-! DEFINITION. The instructions: one constructor per row of spec/opcode_table.json. -/

namespace Sys2Proof

/-- Everything the block executes (00_scope R2): host commands, host register accesses, internal events and the
encoder events a pull takes. -/
inductive Instr where
  /-- START_TX, command word 0x00000001 (41_tx_pipeline R131). -/
  | startTx
  /-- STOP_TX, command word 0x00000002 (41_tx_pipeline R135). -/
  | stopTx
  /-- START_RX, command word 0x00000003 (42_rx_capture R171). -/
  | startRx
  /-- STOP_RX, command word 0x00000004 (42_rx_capture R173). -/
  | stopRx
  /-- INIT, command word 0x00000005 (43_host_access R194). -/
  | init
  /-- WR CMD, any command word (43_host_access R193). -/
  | wrCmd (v : Word)
  /-- RD STATUS (43_host_access R195). -/
  | rdStatus
  /-- The completion query (41_tx_pipeline R138). -/
  | txComplete
  /-- RD CFG (43_host_access R196). -/
  | rdCfg
  /-- WR CFG (43_host_access R196). -/
  | wrCfg (v : Word)
  /-- RD ARR (43_host_access R197). -/
  | rdArr
  /-- RD DMA_IDX (43_host_access R198). -/
  | rdDmaIdx
  /-- RD DUTY_HIGH (43_host_access R199). -/
  | rdDutyHigh
  /-- RD DUTY_LOW (43_host_access R200). -/
  | rdDutyLow
  /-- RD MW_ACC (43_host_access R201). -/
  | rdMwAcc
  /-- RD CAP_DELTA (43_host_access R202). -/
  | rdCapDelta
  /-- RD CAP_CCR1 (43_host_access R203). -/
  | rdCapCcr1
  /-- RD CAP_CCR2 (43_host_access R204). -/
  | rdCapCcr2
  /-- RD CNT (43_host_access R205). -/
  | rdCnt
  /-- RD BUF[i] (43_host_access R206). -/
  | rdBuf (i : Nat)
  /-- An access that is not admitted (43_host_access R207). -/
  | badAccess (a : Access)
  /-- UPDATE, event 0x1 (41_tx_pipeline R150). -/
  | update
  /-- REFILL_BEGIN, event 0x2 (41_tx_pipeline R145). -/
  | refillBegin
  /-- PULL, event 0x3 (41_tx_pipeline R146). -/
  | pull
  /-- EDGE_FALL(k), event 0x4 (42_rx_capture R175). -/
  | edgeFall (k : Word)
  /-- EDGE_RISE(k), event 0x5 (42_rx_capture R176). -/
  | edgeRise (k : Word)
  /-- LEVEL(l, d), encoder kind 00 (40_normalizer R112 to R116). -/
  | level (l : Level) (d : Word)
  /-- WAIT, encoder kind 01 (40_normalizer R117). -/
  | wait
  /-- RESET, encoder kind 10 (40_normalizer R118). -/
  | reset
  /-- BAD, the reserved encoder kind 11 (40_normalizer R119). -/
  | badReserved
deriving DecidableEq, Repr

end Sys2Proof
end

