-- ==== Sys2Proof/WellFormed.lean ====
section
/-! DEFINITION. Which instructions are well formed: the ones an encoding stands for. -/

namespace Sys2Proof

/-- The 13-bit descriptors of the rows of 30_encoding R82, spelled out: writes of CMD and CFG, reads of the eleven
value and status registers, reads of the BUF window (R89). -/
def descAdmitted (d : BitVec 13) : Bool :=
  d == 0x1000#13 || d == 0x1008#13 ||
    (d.toNat % 4 == 0 && decide (0x004 ≤ d.toNat) && decide (d.toNat ≤ 0x02C)) ||
    (d.toNat % 4 == 0 && decide (0x400 ≤ d.toNat) && decide (d.toNat < 0x800))

/-- The size, alignment and range conditions of 20_memory R63. -/
def busAdmitted (base addr size : Nat) : Bool :=
  size == 4 && addr % 4 == 0 && decide (base ≤ addr) && decide (addr < base + 0x1000)

/-- A well-formed instruction. The BUF index has the 8 bits of its descriptor field (opcode_table.json, RD_BUF_i); an
index of N or more is well formed and raises BAD_ACCESS (43_host_access R206). A BAD_ACCESS carries an access that is
not admitted. -/
def Instr.wellFormed (p : Params) : Instr → Bool
  | .rdBuf i => decide (i < 256)
  | .badAccess (.desc d _) => !descAdmitted d
  | .badAccess (.load addr size) => !busAdmitted p.base addr size
  | .badAccess (.store addr bytes) => !busAdmitted p.base addr bytes.length
  | .startTx | .stopTx | .startRx | .stopRx | .init | .wrCmd _ | .rdStatus | .txComplete | .rdCfg | .wrCfg _
  | .rdArr | .rdDmaIdx | .rdDutyHigh | .rdDutyLow | .rdMwAcc | .rdCapDelta | .rdCapCcr1 | .rdCapCcr2 | .rdCnt
  | .update | .refillBegin | .pull | .edgeFall _ | .edgeRise _ | .level _ _ | .wait | .reset | .badReserved => true

end Sys2Proof
end

