-- ==== Sys2Proof/Decode.lean ====
section
/-! DEFINITION. The decoder, total on every packet and rejecting by name, and the encoder written from the same
tables (spec/30_encoding.md). -/

namespace Sys2Proof

/-- Why a packet is no instruction. -/
inductive DecodeError where
  /-- An event code 30_encoding R94 leaves unused ("an unused code cannot occur"). -/
  | unusedEventCode (code : BitVec 4)
deriving DecidableEq, Repr

/-! ### The host data bus (20_memory R64) -/

/-- Byte k of a register value on the bus, at address addr + k: `v[8k+7:8k]`, little-endian. -/
def busByte (v : Word) (k : Nat) : Byte := v.extractLsb' (8 * k) 8

/-- The four bytes of a register value on the bus, from the lowest address up. -/
def busBytes (v : Word) : List Byte := [busByte v 0, busByte v 1, busByte v 2, busByte v 3]

/-- The value whose bytes on the bus are `bytes`, from the lowest address up. -/
def busWord : List Byte → Word
  | [] => 0
  | b :: bytes => BitVec.ofNat 32 (b.toNat + 2 ^ 8 * (busWord bytes).toNat)

/-! ### The register map (30_encoding R82) -/

/-- The byte offset of a register from BASE. -/
def Reg.offset : Reg → Nat
  | .cmd => 0x000
  | .status => 0x004
  | .cfg => 0x008
  | .arr => 0x00C
  | .dmaIdx => 0x010
  | .dutyHigh => 0x014
  | .dutyLow => 0x018
  | .mwAcc => 0x01C
  | .capDelta => 0x020
  | .capCcr1 => 0x024
  | .capCcr2 => 0x028
  | .cnt => 0x02C
  | .buf i => 0x400 + 4 * i

/-- The register at a word offset (byte offset / 4); the BUF window has the 256 places of R89. -/
def regAtWord (w : Nat) : Option Reg :=
  match w with
  | 0 => some .cmd
  | 1 => some .status
  | 2 => some .cfg
  | 3 => some .arr
  | 4 => some .dmaIdx
  | 5 => some .dutyHigh
  | 6 => some .dutyLow
  | 7 => some .mwAcc
  | 8 => some .capDelta
  | 9 => some .capCcr1
  | 10 => some .capCcr2
  | 11 => some .cnt
  | w => if 0x100 ≤ w ∧ w < 0x200 then some (.buf (w - 0x100)) else none

/-- The register at a byte offset; an offset with OFF[1:0] not 00 is unmapped. -/
def regAt (off : Nat) : Option Reg :=
  if off % 4 = 0 then regAtWord (off / 4) else none

/-- The instruction of an access to a register, if the register allows the direction (30_encoding R82). -/
def regInstr (dir : Dir) (r : Reg) (v : Word) : Option Instr :=
  match dir, r with
  | .write, .cmd => some (.wrCmd v)
  | .write, .cfg => some (.wrCfg v)
  | .write, _ => none
  | .read, .cmd => none
  | .read, .status => some .rdStatus
  | .read, .cfg => some .rdCfg
  | .read, .arr => some .rdArr
  | .read, .dmaIdx => some .rdDmaIdx
  | .read, .dutyHigh => some .rdDutyHigh
  | .read, .dutyLow => some .rdDutyLow
  | .read, .mwAcc => some .rdMwAcc
  | .read, .capDelta => some .rdCapDelta
  | .read, .capCcr1 => some .rdCapCcr1
  | .read, .capCcr2 => some .rdCapCcr2
  | .read, .cnt => some .rdCnt
  | .read, .buf i => some (.rdBuf i)

/-! ### Decoding -/

/-- DIR, bit 12 and so the top bit of a descriptor (30_encoding R81). -/
def descDir (d : BitVec 13) : Dir := if d.toNat / 0x1000 = 1 then .write else .read

/-- OFF, bits 11 to 0 of a descriptor (30_encoding R81). -/
def descOff (d : BitVec 13) : Nat := d.toNat % 0x1000

/-- The descriptor of a direction and an offset (30_encoding R81). -/
def mkDesc (dir : Dir) (off : Nat) : BitVec 13 :=
  BitVec.ofNat 13 ((match dir with | .read => 0 | .write => 0x1000) + off % 0x1000)

/-- A descriptor matched against the rows of 30_encoding R82; no row is BAD_ACCESS (R81). -/
def decodeDesc (d : BitVec 13) (v : Word) : Instr :=
  match (regAt (descOff d)).bind (fun r => regInstr (descDir d) r v) with
  | some i => i
  | none => .badAccess (.desc d v)

/-- The bus address of a 4-byte access meets the conditions of 20_memory R63 on size, alignment and range. -/
abbrev busInWindow (base addr size : Nat) : Prop := size = 4 ∧ addr % 4 = 0 ∧ base ≤ addr ∧ addr < base + 0x1000

/-- A host access, in the order of checks of 43_host_access R190: size, alignment, range, then the map. -/
def decodeAccess (base : Nat) : Access → Instr
  | .desc d v => decodeDesc d v
  | .load addr size =>
    if busInWindow base addr size then decodeDesc (mkDesc .read (addr - base)) 0 else .badAccess (.load addr size)
  | .store addr bytes =>
    if busInWindow base addr bytes.length then decodeDesc (mkDesc .write (addr - base)) (busWord bytes)
    else .badAccess (.store addr bytes)

/-- A command word (30_encoding R84). A word that is no command is the write of it to CMD, which faults (R85). -/
def decodeCmd (w : Word) : Instr :=
  match w with
  | 0x00000001#32 => .startTx
  | 0x00000002#32 => .stopTx
  | 0x00000003#32 => .startRx
  | 0x00000004#32 => .stopRx
  | 0x00000005#32 => .init
  | w => .wrCmd w

/-- An event label (30_encoding R94). -/
def decodeEvent (code : BitVec 4) (k : Word) : Except DecodeError Instr :=
  match code with
  | 0x1#4 => .ok .update
  | 0x2#4 => .ok .refillBegin
  | 0x3#4 => .ok .pull
  | 0x4#4 => .ok (.edgeFall k)
  | 0x5#4 => .ok (.edgeRise k)
  | c => .error (.unusedEventCode c)

/-- An encoder port word (30_encoding R90, R91); LEVEL and DURATION are ignored outside KIND = 00. -/
def decodeEncoder (w : EncWord) : Instr :=
  match w.kind with
  | 0b00#2 => .level w.level w.duration
  | 0b01#2 => .wait
  | 0b10#2 => .reset
  | _ => .badReserved

/-- The decoder. BASE, of the parameters, places bus addresses in the window. -/
def decode (p : Params) : Packet → Except DecodeError Instr
  | .cmd w => .ok (decodeCmd w)
  | .mmio a => .ok (decodeAccess p.base a)
  | .txQuery => .ok .txComplete
  | .event code k => decodeEvent code k
  | .encoder w => .ok (decodeEncoder w)

/-! ### Encoding -/

/-- A read of a register as a packet (30_encoding R81). -/
def readPacket (r : Reg) : Packet := .mmio (.desc (mkDesc .read r.offset) 0)

/-- A write of a register as a packet (30_encoding R81). -/
def writePacket (r : Reg) (v : Word) : Packet := .mmio (.desc (mkDesc .write r.offset) v)

/-- The encoder; fields the port ignores are 0. -/
def encode : Instr → Packet
  | .startTx => .cmd 0x00000001#32
  | .stopTx => .cmd 0x00000002#32
  | .startRx => .cmd 0x00000003#32
  | .stopRx => .cmd 0x00000004#32
  | .init => .cmd 0x00000005#32
  | .wrCmd v => writePacket .cmd v
  | .rdStatus => readPacket .status
  | .txComplete => .txQuery
  | .rdCfg => readPacket .cfg
  | .wrCfg v => writePacket .cfg v
  | .rdArr => readPacket .arr
  | .rdDmaIdx => readPacket .dmaIdx
  | .rdDutyHigh => readPacket .dutyHigh
  | .rdDutyLow => readPacket .dutyLow
  | .rdMwAcc => readPacket .mwAcc
  | .rdCapDelta => readPacket .capDelta
  | .rdCapCcr1 => readPacket .capCcr1
  | .rdCapCcr2 => readPacket .capCcr2
  | .rdCnt => readPacket .cnt
  | .rdBuf i => readPacket (.buf i)
  | .badAccess a => .mmio a
  | .update => .event 0x1#4 0
  | .refillBegin => .event 0x2#4 0
  | .pull => .event 0x3#4 0
  | .edgeFall k => .event 0x4#4 k
  | .edgeRise k => .event 0x5#4 k
  | .level l d => .encoder ⟨0b00#2, l, d⟩
  | .wait => .encoder ⟨0b01#2, false, 0⟩
  | .reset => .encoder ⟨0b10#2, false, 0⟩
  | .badReserved => .encoder ⟨0b11#2, false, 0⟩

/-! ### The pseudo-instructions of 30_encoding R98 -/

/-- `CMD START_TX` and its kind, by opcode. -/
def HostStmt.cmd (op : Word) : HostStmt := .wr .cmd op

/-- `SETCFG regmode=a, mirror=b`. -/
def HostStmt.setCfg (a b : Bool) : HostStmt := .wr .cfg (BitVec.ofNat 32 (a.toNat + 2 ^ 1 * b.toNat))

/-- `POLL <reg>.<field> == v`, placed at statement `here` with variable `t`. -/
def HostStmt.poll (here : Nat) (r : Reg) (t : Nat) (mask value : Word) : List HostStmt :=
  [.rd r t, .bne t mask value here]

/-- `WAIT_TX_DONE`. -/
def HostStmt.waitTxDone (here t : Nat) : List HostStmt := HostStmt.poll here .status t 0x8 0x8

/-! ### Words of the opcode table -/

/-- The packet of an opcode-table word `w` of `nbits` bits (rounded up to bytes, or exact). Command words have 32 bits
and descriptors 13. Event codes (4 bits) and encoder kinds (2 bits) share the 8-bit words: DESIGN CHOICE (log 12), 1
to 5 are the events and 0, no event code, is the LEVEL kind. A descriptor above 13 bits is no word of the table. -/
def tablePacket (nbits w : Nat) : Option Packet :=
  match nbits with
  | 32 => some (.cmd (BitVec.ofNat 32 w))
  | 13 => if w < 0x2000 then some (.mmio (.desc (BitVec.ofNat 13 w) 0)) else none
  | 16 => if w < 0x2000 then some (.mmio (.desc (BitVec.ofNat 13 w) 0)) else none
  | 8 =>
    if w = 0 then some (.encoder ⟨0b00#2, false, 0⟩)
    else if w < 16 then some (.event (BitVec.ofNat 4 w) 0) else none
  | 4 => if w < 16 then some (.event (BitVec.ofNat 4 w) 0) else none
  | 2 => if w < 4 then some (.encoder ⟨BitVec.ofNat 2 w, false, 0⟩) else none
  | _ => none

/-- The instruction the decoder reads from a word of the opcode table. -/
def decodeTableWord (nbits w : Nat) : Option Instr :=
  match tablePacket nbits w with
  | none => none
  | some p =>
    match decode Config.params p with
    | .ok i => some i
    | .error _ => none

end Sys2Proof
end

