-- ==== Sys2Proof/Machine/State.lean ====
section
/-! DEFINITION. The state of the block as plain data (spec/10_state.md), the machine's reasons to stop, and reset. -/

namespace Sys2Proof.Machine

/-- TransceiverState (10_state R21); the codes 5 to 7 never occur. -/
inductive TState where
  | uninit
  | faulty
  | idle
  | asyncRx
  | asyncTx
deriving DecidableEq, Repr

/-- The result of the last command (10_state R26); the code 3 never occurs. -/
inductive LastResult where
  | none
  | ok
  | rejected
deriving DecidableEq, Repr

/-- The fault codes (60_exceptions R222); the codes 7 to 15 are unused. -/
inductive FaultCode where
  | none
  | chipTimeout
  | stopWrongState
  | badEncoderEvent
  | txUnderrun
  | illegalCommand
  | badAccess
deriving DecidableEq, Repr

/-- MiddlewareState (10_state R37); the code 3 never occurs. -/
inductive MwState where
  | idle
  | resetPending
  | running
deriving DecidableEq, Repr

/-- A radio chip request (10_state R50, 30_encoding R95). -/
inductive ChipReq where
  | selfTest
  | tx
  | rx
  | idle
deriving DecidableEq, Repr

/-- A radio chip answer (10_state R50, 30_encoding R95). -/
inductive ChipAnswer where
  | ok
  | timeout
  | pass
  | fail
deriving DecidableEq, Repr

/-- An output record (10_state R52). The ticks of a segment are `arr + 1` without wrap, up to 2^32 (41_tx_pipeline
R150); the percentage is an exact rational (R137). -/
inductive Record where
  | seg (level : Level) (ticks : Nat)
  | mirror (level : Level)
  | cap (isFalling : Bool) (duration : Word)
  | chip (req : ChipReq) (answer : ChipAnswer)
  | dutyLog (high low : Word) (pct : Rat)
  | fault (code : FaultCode)
deriving DecidableEq, Repr

/-- The reload buffer (10_state R29, 20_memory R60): the words that hold a known value, by index, indices strictly
rising. An index that is not listed holds an unspecified value (R77). -/
abbrev Memory := List (Nat × Word)

/-- The canonical form of the buffer. An unlisted word has no value of its own (a read of it is a draw, log 8), so no
entry can equal it, and the rising order is the whole condition. -/
abbrev Memory.wf (m : Memory) : Prop := m.Pairwise (fun a b => a.1 < b.1)

/-- Why the machine stops. -/
inductive Fault where
  /-- Raised by every step and by every meaning once `s.fault` = 1, with the recorded code: "no agent has a step"
  (60_exceptions R221). Safe: the machine stops exactly where the spec's does. -/
  | stopped (code : FaultCode)
deriving DecidableEq, Repr

/-- Why an instruction has no meaning. -/
inductive Refusal where
  /-- Raised by an arm of `exec` for an instruction that is not modelled; no arm does. Safe. -/
  | notModelled (mnemonic : String)
  /-- Raised by `step` when the agenda offers an event code that 30_encoding R94 leaves unused: "an unused code cannot
  occur". Safe: the spec has no such step. -/
  | unusedEventCode (code : BitVec 4)
deriving DecidableEq, Repr

/-- The state. The fields down to `trace` are the spec's (10_state R20 to R52; `busy` is `fillActive`, R28, log 17);
the fields after it are the model's own: parameters, inputs of the outside world and counters of free values. -/
structure State where
  tstate : TState
  regmode : Bool
  mirrorEn : Bool
  lastResult : LastResult
  fault : Bool
  faultCode : FaultCode
  buf : Memory
  arr : Word
  dmaIdx : Nat
  txRun : Bool
  out : Level
  feedIe : Bool
  htPend : Bool
  tcPend : Bool
  fillActive : Bool
  fillKind : FillKind
  fillPos : Nat
  fillEnd : Nat
  fillHalf : Half
  fillZero : Bool
  mwState : MwState
  mwAcc : Word
  mwPol : Level
  dutyHigh : Word
  dutyLow : Word
  mirrorActive : Bool
  mirror : Level
  cnt : Word
  delta : Word
  ccr1 : Word
  ccr2 : Word
  encPos : Nat
  trace : List Record
  /-- The parameters of 00_scope R8; no step writes them (log 10). -/
  params : Params
  /-- The encoder events from position `encPos` on; after them `Config.encoder` (10_state R47, log 5). -/
  encIn : List EncWord
  /-- The next chip answers, true for OK or PASS; after them `Config.chip` (10_state R50, log 6). -/
  chipIn : List Bool
  /-- The count of chip requests made (log 6). -/
  chips : Nat
  /-- The count of draws taken, the argument of `Config.draw` (10_state R51, log 7). -/
  draws : Nat
  /-- The steps scheduled next; after them `Config.schedule` (00_scope R7, log 3). -/
  agenda : List Slot
  /-- The count of turns taken from `Config.schedule` (log 3). -/
  turns : Nat
  /-- The host program (30_encoding R97, log 4), the number of its next statement and its variables. -/
  hostProg : List HostStmt
  hostPc : Nat
  hostVars : List (Nat × Word)
  /-- The value the last host read returned (43_host_access R190, log 11). -/
  rdata : Word
deriving DecidableEq, Repr

/-- `s.busy`, "equal at every state to `s.fill_active`" (10_state R28). -/
def State.busy (s : State) : Bool := s.fillActive

/-- Block reset (10_state R53, 70_reset_and_hazards R250). -/
def State.reset : State where
  tstate := .uninit
  regmode := false
  mirrorEn := false
  lastResult := .none
  fault := false
  faultCode := .none
  buf := []
  arr := Config.resetArr
  dmaIdx := 0
  txRun := false
  out := false
  feedIe := false
  htPend := false
  tcPend := false
  fillActive := false
  fillKind := Config.resetFillKind
  fillPos := Config.resetFillPos
  fillEnd := Config.resetFillEnd
  fillHalf := Config.resetFillHalf
  fillZero := false
  mwState := .idle
  mwAcc := 0
  mwPol := false
  dutyHigh := 0
  dutyLow := 0
  mirrorActive := false
  mirror := false
  cnt := 0
  delta := 0
  ccr1 := 0
  ccr2 := 0
  encPos := 0
  trace := []
  params := Config.params
  encIn := []
  chipIn := []
  chips := 0
  draws := 0
  agenda := []
  turns := 0
  hostProg := Config.hostProgram
  hostPc := 0
  hostVars := []
  rdata := 0

end Sys2Proof.Machine
end

