-- ==== Sys2Proof/Machine/Ops.lean ====
section
/-! DEFINITION. The named operations over the buffer, the oracles, the trace and the fault state (spec/00_scope.md
R11), and the form every agent's step has. -/

namespace Sys2Proof.Machine

/-! ### The reload buffer (20_memory R60, R62) -/

/-- The listed value of word `i`, if any. -/
def Memory.read (m : Memory) (i : Nat) : Option Word :=
  match m with
  | [] => none
  | (j, w) :: rest => if j = i then some w else Memory.read rest i

/-- Word `i` holds `v`; the indices stay rising. -/
def Memory.write (m : Memory) (i : Nat) (v : Word) : Memory :=
  match m with
  | [] => [(i, v)]
  | (j, w) :: rest =>
    if i < j then (i, v) :: (j, w) :: rest
    else if i = j then (i, v) :: rest
    else (j, w) :: Memory.write rest i v

/-! ### The trace and the fault state -/

/-- `emit(rec)` (00_scope R11). -/
def State.emit (s : State) (r : Record) : State := { s with trace := s.trace ++ [r] }

/-- `raise Fault(code)` (60_exceptions R221), the one way a fault is taken: the first code is recorded and traced, and
the writes made before it stand. There is no vector, no saved state and no return (R234, R235); only block reset clears
a fault (10_state R27), and no reset happens within a run (70_reset_and_hazards R250). -/
def State.raise (s : State) (code : FaultCode) : State :=
  if s.fault then s else { s with fault := true, faultCode := code, trace := s.trace ++ [.fault code] }

/-! ### Draws (10_state R51) -/

/-- The value of the next draw from [0, 2^32), a free value (log 7). -/
def State.drawn (s : State) : Word := Config.draw s.draws

/-- The value of the next draw from [0, n) for n up to 2^32: any member of the set (log 7). -/
def State.drawnBelow (s : State) (n : Nat) : Word := BitVec.ofNat 32 (s.drawn.toNat % n)

/-- The state once a draw is taken; the next draw is independent of it. -/
def State.afterDraw (s : State) : State := { s with draws := s.draws + 1 }

/-- The value read from buffer word `i`: its listed value, or a draw where no fill of the session wrote it
(20_memory R77, log 8). -/
def State.bufWord (s : State) (i : Nat) : Word := (Memory.read s.buf i).getD s.drawn

/-- The state after that read: a draw is used up only where one was taken. -/
def State.afterBufWord (s : State) (i : Nat) : State :=
  if (Memory.read s.buf i).isSome then s else s.afterDraw

/-! ### The radio chip (10_state R50) -/

/-- Whether the chip's next answer is the good one, OK or PASS: the next of `chipIn`, then the oracle (log 6). -/
def State.chipGood (s : State) : Bool := s.chipIn.headD (Config.chip s.chips)

/-- The answer a request gets: PASS or FAIL for a self test, OK or TIMEOUT otherwise. -/
def chipAnswer (req : ChipReq) (good : Bool) : ChipAnswer :=
  match req, good with
  | .selfTest, true => .pass
  | .selfTest, false => .fail
  | _, true => .ok
  | _, false => .timeout

/-- `chip(req)` with its CHIP record: the state after the answer. -/
def State.afterChip (s : State) (req : ChipReq) : State :=
  { s with
    chipIn := s.chipIn.tail
    chips := s.chips + 1
    trace := s.trace ++ [.chip req (chipAnswer req s.chipGood)] }

/-! ### The encoder stream (10_state R46, R47) -/

/-- `E(s.enc_pos)` as its port word: the next of `encIn`, then the stream's own (log 5). -/
def State.encHead (s : State) : EncWord := s.encIn.headD (Config.encoder s.encPos)

/-- `pull()`'s advance of the stream position. -/
def State.pulled (s : State) : State := { s with encIn := s.encIn.tail, encPos := s.encPos + 1 }

/-! ### The debug mirror pin (10_state R41) -/

/-- While the session uses the mirror pin: drive it to `lvl` and record it (41_tx_pipeline R156, 42_rx_capture R182). -/
def State.driveMirror (s : State) (lvl : Level) : State :=
  if s.mirrorActive then State.emit { s with mirror := lvl } (.mirror lvl) else s

/-! ### The form of a step -/

/-- One agent's step: none after a fault (60_exceptions R221, the machine has stopped); `body` where the agent's step is
enabled; where it is not, the agent has no step and its turn passes with the state unchanged (`hold`, 00_scope R11,
log 2). -/
def takeStep (enabled : Bool) (body : State) (s : State) : Host.Outcome State Fault Refusal :=
  if s.fault then .fault (.stopped s.faultCode) else if enabled then .next body else .next s

/-- A HOST step: enabled while the feeder does not run (43_host_access R190, R191). -/
def hostStep (body : State) (s : State) : Host.Outcome State Fault Refusal := takeStep (!s.busy) body s

end Sys2Proof.Machine
end

