-- ==== Sys2Proof/Machine/Flags.lean ====
section
/-! DEFINITION. The derived conditions of the block: completion, the hold rule, and when each agent's step is enabled
(spec/10_state.md R48, R49; spec/41_tx_pipeline.md R145 to R151; spec/42_rx_capture.md R175). -/

namespace Sys2Proof.Machine

/-- TX_COMPLETE(s) (10_state R48). -/
def State.txComplete (s : State) : Bool := s.tstate == .asyncTx && s.arr == 0

/-- HALTED(s) (10_state R49). -/
def State.halted (s : State) : Bool := s.tstate == .asyncTx && s.txRun && s.arr == 0

/-- DIRTY(s, h) (41_tx_pipeline R151). -/
def State.dirty (s : State) (h : Half) : Bool :=
  (match h with | .first => s.htPend | .second => s.tcPend) ||
    (s.fillActive && s.fillKind == .refill && s.fillHalf == h)

/-- NEEDS_REFILL(s) (41_tx_pipeline R151). -/
def State.needsRefill (s : State) : Bool :=
  (s.dmaIdx == 0 && s.dirty .first) || (s.dmaIdx == s.params.half && s.dirty .second)

/-- HOLD(s) (41_tx_pipeline R151). -/
def State.holds (s : State) : Bool := s.params.policy == .hold && s.needsRefill

/-- UPDATE is due: enabled, or held only by the hold rule (41_tx_pipeline R150, R154). -/
def State.updateDue (s : State) : Bool := s.tstate == .asyncTx && (s.txRun && s.arr != 0)

/-- UPDATE is enabled, the fault condition aside (41_tx_pipeline R150). -/
def State.updateEnabled (s : State) : Bool := s.updateDue && !s.holds

/-- REFILL_BEGIN is enabled, the fault condition aside (41_tx_pipeline R145). -/
def State.refillEnabled (s : State) : Bool :=
  s.tstate == .asyncTx && !s.fillActive && (s.htPend || s.tcPend)

/-- An edge event is enabled, the fault condition aside (42_rx_capture R175, R176, R180). -/
def State.edgeEnabled (s : State) : Bool := s.tstate == .asyncRx

/-- A PULL that takes an encoder event is enabled: a fill runs and the generator pulls (41_tx_pipeline R146,
40_normalizer R111, R112). -/
def State.takesEvent (s : State) : Bool := s.fillActive && s.mwState != .resetPending

end Sys2Proof.Machine
end

