-- ==== Sys2Proof/Machine/Operands.lean ====
section
/-! DEFINITION. The words the host reads and writes and the words the feeder writes: STATUS, CFG, value registers
(spec/30_encoding.md R86 to R88), the reload encoding (spec/40_normalizer.md R120), the capture (spec/42_rx_capture.md
R179) and the duty percentage (spec/41_tx_pipeline.md R137). -/

namespace Sys2Proof.Machine

/-! ### Codes -/

/-- TSTATE (10_state R21). -/
def TState.code : TState → BitVec 3
  | .uninit => 0
  | .faulty => 1
  | .idle => 2
  | .asyncRx => 3
  | .asyncTx => 4

/-- MW_STATE (10_state R37). -/
def MwState.code : MwState → BitVec 2
  | .idle => 0
  | .resetPending => 1
  | .running => 2

/-- LAST_RESULT (10_state R26). -/
def LastResult.code : LastResult → BitVec 2
  | .none => 0
  | .ok => 1
  | .rejected => 2

/-- FAULT_CODE (60_exceptions R222). -/
def FaultCode.code : FaultCode → BitVec 4
  | .none => 0
  | .chipTimeout => 1
  | .stopWrongState => 2
  | .badEncoderEvent => 3
  | .txUnderrun => 4
  | .illegalCommand => 5
  | .badAccess => 6

/-- The codes of chip requests in CHIP records (30_encoding R95). -/
def ChipReq.code : ChipReq → Nat
  | .selfTest => 0
  | .tx => 1
  | .rx => 2
  | .idle => 3

/-- The codes of chip answers in CHIP records (30_encoding R95). -/
def ChipAnswer.code : ChipAnswer → Nat
  | .ok => 0
  | .timeout => 1
  | .pass => 2
  | .fail => 3

/-! ### Register words -/

/-- STATUS (30_encoding R86), each field at its lowest bit; bits 31 to 22 are 0. -/
def State.statusWord (s : State) : Word :=
  BitVec.ofNat 32
    (s.tstate.code.toNat + 2 ^ 3 * s.txComplete.toNat + 2 ^ 4 * s.mwState.code.toNat + 2 ^ 6 * s.mwPol.toNat +
      2 ^ 7 * s.fault.toNat + 2 ^ 8 * s.faultCode.code.toNat + 2 ^ 12 * s.lastResult.code.toNat +
      2 ^ 14 * s.feedIe.toNat + 2 ^ 15 * s.htPend.toNat + 2 ^ 16 * s.tcPend.toNat + 2 ^ 17 * s.busy.toNat +
      2 ^ 18 * s.txRun.toNat + 2 ^ 19 * s.out.toNat + 2 ^ 20 * s.mirrorActive.toNat + 2 ^ 21 * s.mirror.toNat)

/-- CFG as read (43_host_access R196); bits 31 to 2 are 0. -/
def State.cfgWord (s : State) : Word := BitVec.ofNat 32 (s.regmode.toNat + 2 ^ 1 * s.mirrorEn.toNat)

/-- CFG written: bits 1 and 0 are stored, the others ignored (43_host_access R196). -/
def State.writeCfg (s : State) (v : Word) : State :=
  { s with regmode := v.getLsbD 0, mirrorEn := v.getLsbD 1 }

/-- A host read that returns `v`. -/
def State.answer (s : State) (v : Word) : State := { s with rdata := v }

/-- The four bytes the last host read put on the bus, byte k at address addr + k (20_memory R64). -/
def State.readBytes (s : State) : List Byte := busBytes s.rdata

/-- A host read that returns `v` where `v` is defined, and a draw from [0, 2^32) elsewhere (20_memory R76,
43_host_access R197 to R206). -/
def State.answerOrDraw (s : State) (defined : Bool) (v : Word) : State :=
  if defined then s.answer v else s.afterDraw.answer s.drawn

/-- The same with the draw from [0, n) (43_host_access R198). -/
def State.answerOrDrawBelow (s : State) (defined : Bool) (v : Word) (n : Nat) : State :=
  if defined then s.answer v else s.afterDraw.answer (s.drawnBelow n)

/-! ### The feeder's words -/

/-- ENC(v) (40_normalizer R120). -/
def encReload (v : Word) : Word := if v = 0 then 0 else if v = 1 then 1 else v - 1

/-- PCT(h, l), an exact rational (41_tx_pipeline R137). -/
def dutyPct (h l : Word) : Rat :=
  if h.toNat + l.toNat = 0 then 0 else mkRat (h.toNat * 100) (h.toNat + l.toNat)

/-! ### The capture -/

/-- Whether the count stays below the counter's period (42_rx_capture R179). -/
def State.captureFits (s : State) (k : Word) : Bool := decide (s.cnt.toNat + k.toNat < s.params.rxWrap)

/-- CAPTURE(s.cnt, k) (42_rx_capture R179): the count, or a draw from [0, RX_WRAP) where it would reach the period. -/
def State.captured (s : State) (k : Word) : Word :=
  if s.captureFits k then s.cnt + k else s.drawnBelow s.params.rxWrap

/-- The state after a capture: a draw is used up only where one was taken. -/
def State.afterCapture (s : State) (k : Word) : State := if s.captureFits k then s else s.afterDraw

end Sys2Proof.Machine
end

