-- ==== Sys2Proof/Machine/Access.lean ====
section
/-! DEFINITION. The host's register reads, the CFG write and the access fault (spec/43_host_access.md R195 to R207,
spec/41_tx_pipeline.md R138). -/

namespace Sys2Proof.Machine

/-- RD STATUS (43_host_access R195). -/
def execRdStatus (s : State) : Host.Outcome State Fault Refusal := hostStep (s.answer s.statusWord) s

/-- The completion query (41_tx_pipeline R138): the host takes bit 3 of its STATUS read, here as 0 or 1 (log 11). -/
def execTxComplete (s : State) : Host.Outcome State Fault Refusal :=
  hostStep (s.answer (if s.txComplete then 1 else 0)) s

/-- RD CFG (43_host_access R196). -/
def execRdCfg (s : State) : Host.Outcome State Fault Refusal := hostStep (s.answer s.cfgWord) s

/-- WR CFG (43_host_access R196). -/
def execWrCfg (v : Word) (s : State) : Host.Outcome State Fault Refusal := hostStep (s.writeCfg v) s

/-- RD ARR (43_host_access R197). -/
def execRdArr (s : State) : Host.Outcome State Fault Refusal :=
  hostStep (s.answerOrDraw (s.tstate == .asyncTx) s.arr) s

/-- RD DMA_IDX (43_host_access R198). -/
def execRdDmaIdx (s : State) : Host.Outcome State Fault Refusal :=
  hostStep (s.answerOrDrawBelow (s.tstate == .asyncTx) (BitVec.ofNat 32 s.dmaIdx) s.params.n) s

/-- RD DUTY_HIGH (43_host_access R199). -/
def execRdDutyHigh (s : State) : Host.Outcome State Fault Refusal := hostStep (s.answer s.dutyHigh) s

/-- RD DUTY_LOW (43_host_access R200). -/
def execRdDutyLow (s : State) : Host.Outcome State Fault Refusal := hostStep (s.answer s.dutyLow) s

/-- RD MW_ACC (43_host_access R201). -/
def execRdMwAcc (s : State) : Host.Outcome State Fault Refusal := hostStep (s.answer s.mwAcc) s

/-- RD CAP_DELTA (43_host_access R202). -/
def execRdCapDelta (s : State) : Host.Outcome State Fault Refusal :=
  hostStep (s.answerOrDraw (s.tstate == .asyncRx) s.delta) s

/-- RD CAP_CCR1 (43_host_access R203). -/
def execRdCapCcr1 (s : State) : Host.Outcome State Fault Refusal :=
  hostStep (s.answerOrDraw (s.tstate == .asyncRx) s.ccr1) s

/-- RD CAP_CCR2 (43_host_access R204). -/
def execRdCapCcr2 (s : State) : Host.Outcome State Fault Refusal :=
  hostStep (s.answerOrDraw (s.tstate == .asyncRx) s.ccr2) s

/-- RD CNT (43_host_access R205): always a draw. -/
def execRdCnt (s : State) : Host.Outcome State Fault Refusal := hostStep (s.afterDraw.answer s.drawn) s

/-- The value a read of BUF[i] returns and the draw it may use (20_memory R76, R77): the word in ASYNC_TX, a draw where
the word is unwritten or in any other state. -/
def State.readBuf (s : State) (i : Nat) : State :=
  if s.tstate = .asyncTx then (s.afterBufWord i).answer (s.bufWord i) else s.afterDraw.answer s.drawn

/-- RD BUF[i] (43_host_access R206, R207): an index of N or more is BAD_ACCESS. -/
def execRdBuf (i : Nat) (s : State) : Host.Outcome State Fault Refusal :=
  hostStep (if i < s.params.n then s.readBuf i else s.raise .badAccess) s

/-- An access that is not admitted (43_host_access R207); "The access has no other effect". -/
def execBadAccess (_a : Access) (s : State) : Host.Outcome State Fault Refusal := hostStep (s.raise .badAccess) s

end Sys2Proof.Machine
end

