-- ==== Sys2Proof/Machine/Capture.lean ====
section
/-! DEFINITION. The edge events of a receive session (spec/42_rx_capture.md R175 to R180). Each is one step: capture,
mirror, CAP record (R177). -/

namespace Sys2Proof.Machine

/-- The body of EDGE_FALL(k) (42_rx_capture R175). -/
def State.edgeFall (s : State) (k : Word) : State :=
  let c := s.captured k
  (State.driveMirror { s.afterCapture k with ccr1 := c, delta := c, cnt := c } false).emit (.cap true c)

/-- The body of EDGE_RISE(k) (42_rx_capture R176). -/
def State.edgeRise (s : State) (k : Word) : State :=
  let c := s.captured k
  (State.driveMirror { s.afterCapture k with ccr2 := c, cnt := 0 } true).emit (.cap false (c - s.delta))

/-- EDGE_FALL(k) (42_rx_capture R175). -/
def execEdgeFall (k : Word) (s : State) : Host.Outcome State Fault Refusal := takeStep s.edgeEnabled (s.edgeFall k) s

/-- EDGE_RISE(k) (42_rx_capture R176). -/
def execEdgeRise (k : Word) (s : State) : Host.Outcome State Fault Refusal := takeStep s.edgeEnabled (s.edgeRise k) s

end Sys2Proof.Machine
end

