-- ==== Sys2Proof/Machine/Normalizer.lean ====
section
/-! DEFINITION. The reload-value generator as a one-event transition (spec/40_normalizer.md R110 to R123). -/

namespace Sys2Proof.Machine

/-- The generator's state (40_normalizer R110). -/
structure Gen where
  state : MwState
  acc : Word
  pol : Level
deriving DecidableEq, Repr

/-- The result of one transition (40_normalizer R110): pull again, an emission, or the fault of R119. -/
inductive GenResult where
  | skip (g : Gen)
  | emit (v : Word) (g : Gen)
  | bad
deriving DecidableEq, Repr

/-- LEVEL(l, d) (40_normalizer R113 to R116; R111 where a reset is pending). Sums wrap (R122). -/
def Gen.level (g : Gen) (l : Level) (d : Word) : GenResult :=
  match g.state with
  | .resetPending => .emit 0 g
  | .idle => if l = g.pol then .skip g else .skip ⟨.running, d, l⟩
  | .running => if l = g.pol then .skip { g with acc := g.acc + d } else .emit g.acc ⟨.running, d, l⟩

/-- WAIT (40_normalizer R117; R111 where a reset is pending). -/
def Gen.wait (g : Gen) (guardTime : Word) : GenResult :=
  match g.state with
  | .resetPending => .emit 0 g
  | _ => .emit (g.acc + guardTime) ⟨g.state, 0, !g.pol⟩

/-- RESET (40_normalizer R118; R111 where a reset is pending). -/
def Gen.reset (g : Gen) : GenResult :=
  match g.state with
  | .resetPending => .emit 0 g
  | _ => .emit g.acc ⟨.resetPending, 0, false⟩

/-- The reserved event (40_normalizer R119; R111 where a reset is pending). -/
def Gen.reserved (g : Gen) : GenResult :=
  match g.state with
  | .resetPending => .emit 0 g
  | _ => .bad

/-- δ for the event of a port word (40_normalizer R111 to R119, 30_encoding R90). With a reset pending no event is
read, and the word makes no difference. -/
def Gen.delta (g : Gen) (guardTime : Word) (w : EncWord) : GenResult :=
  match w.kind with
  | 0b00#2 => g.level w.level w.duration
  | 0b01#2 => g.wait guardTime
  | 0b10#2 => g.reset
  | _ => g.reserved

/-- The generator's state in the block (10_state R37 to R39). -/
def State.gen (s : State) : Gen := ⟨s.mwState, s.mwAcc, s.mwPol⟩

/-- The generator's state written back. -/
def State.setGen (s : State) (g : Gen) : State := { s with mwState := g.state, mwAcc := g.acc, mwPol := g.pol }

/-- `mw_init()` (40_normalizer R123). -/
def State.mwInit (s : State) : State :=
  { s with mwState := .idle, mwAcc := 0, mwPol := false, dutyHigh := 0, dutyLow := 0 }

end Sys2Proof.Machine
end

