-- ==== Sys2Proof/Machine/Pipeline.lean ====
section
/-! DEFINITION. The fill and timer operations of the transmit pipeline (spec/41_tx_pipeline.md R133, R134, R147 to
R153). -/

namespace Sys2Proof.Machine

/-- `prefill_begin()` (41_tx_pipeline R133). A new session begins here: no word of the buffer is written by a fill of
it yet, so none is listed (20_memory R77, log 8). -/
def State.prefillBegin (s : State) : State :=
  { s.mwInit with
    buf := []
    fillActive := true
    fillKind := .prefill
    fillPos := 0
    fillEnd := s.params.n
    fillZero := false }

/-- The writes of `arm()` before its chip request (41_tx_pipeline R134). -/
def State.armTimer (s : State) : State :=
  { State.driveMirror
      { s with
        out := false
        arr := s.params.lead
        dmaIdx := 0
        htPend := false
        tcPend := false
        feedIe := !s.fillZero
        mirrorActive := s.mirrorEn } false with
    txRun := true }

/-- `arm()` (41_tx_pipeline R134). -/
def State.arm (s : State) : State :=
  let t := s.armTimer
  if t.chipGood then { t.afterChip .tx with tstate := .asyncTx, lastResult := .ok }
  else (t.afterChip .tx).raise .chipTimeout

/-- `finish_fill()` (41_tx_pipeline R149). -/
def State.finishFill (s : State) : State :=
  match s.fillKind with
  | .prefill => State.arm { s with fillActive := false }
  | .refill => { s with fillActive := false }

/-- The writes of `write_value(v)` before its end-of-fill test (41_tx_pipeline R147): the word, the duty bucket of its
position's parity, the position. -/
def State.putValue (s : State) (v : Word) : State :=
  { s with
    buf := Memory.write s.buf s.fillPos (encReload v)
    dutyHigh := if s.fillPos % 2 = 0 then s.dutyHigh + v else s.dutyHigh
    dutyLow := if s.fillPos % 2 = 0 then s.dutyLow else s.dutyLow + v
    fillPos := s.fillPos + 1 }

/-- `write_value(v)` (41_tx_pipeline R147). -/
def State.writeValue (s : State) (v : Word) : State :=
  let t := s.putValue v
  if t.fillPos = t.fillEnd then t.finishFill else t

/-- The writes of `write_zero()` before the end of the fill (41_tx_pipeline R148). -/
def State.putZero (s : State) : State :=
  { s with
    buf := Memory.write s.buf s.fillPos 0
    fillZero := true
    feedIe := false
    htPend := false
    tcPend := false }

/-- `write_zero()` (41_tx_pipeline R148). -/
def State.writeZero (s : State) : State := s.putZero.finishFill

/-- What a PULL does with δ's result (41_tx_pipeline R146; the fault of 40_normalizer R119). -/
def State.applyGen (s : State) (r : GenResult) : State :=
  match r with
  | .skip g => s.setGen g
  | .emit v g => if v = 0 then (s.setGen g).writeZero else (s.setGen g).writeValue v
  | .bad => s.raise .badEncoderEvent

/-- One transition of the generator inside a fill (41_tx_pipeline R146): with a reset pending it emits 0 and pulls
nothing (40_normalizer R111), otherwise it pulls one event (R112). -/
def State.pullStep (s : State) : State :=
  if s.mwState = .resetPending then s.applyGen (.emit 0 s.gen)
  else s.pulled.applyGen (s.gen.delta s.params.guardTime s.encHead)

/-- The half REFILL_BEGIN takes (41_tx_pipeline R145): with both requests pending, the one the DMA reaches next. -/
def State.refillHalf (s : State) : Half :=
  if s.htPend && s.tcPend then (if s.dmaIdx < s.params.half then .first else .second)
  else if s.htPend then .first
  else .second

/-- The first word of a half (10_state R29). -/
def halfStart (p : Params) (h : Half) : Nat :=
  match h with
  | .first => 0
  | .second => p.half

/-- The body of REFILL_BEGIN (41_tx_pipeline R145). -/
def State.refillBegin (s : State) : State :=
  let h := s.refillHalf
  { s with
    htPend := if h = .first then false else s.htPend
    tcPend := if h = .first then s.tcPend else false
    fillActive := true
    fillKind := .refill
    fillHalf := h
    fillPos := halfStart s.params h
    fillEnd := halfStart s.params h + s.params.half
    fillZero := false }

/-- `request_update(i)` (41_tx_pipeline R153). -/
def State.requestUpdate (s : State) (i : Nat) : State :=
  { s with
    htPend := s.htPend || (i + 1 == s.params.half && s.feedIe)
    tcPend := s.tcPend || (i + 1 == s.params.n && s.feedIe) }

/-- The line level after an UPDATE that transfers `w` (41_tx_pipeline R150): the terminator drives the idle level,
any other word toggles. -/
def nextLevel (out : Level) (w : Word) : Level := if w = 0 then false else !out

/-- The transfer of UPDATE (41_tx_pipeline R150): the SEG record, one DMA transfer, the line, the mirror, the reload
register, the index and the requests. -/
def State.transfer (s : State) : State :=
  let i := s.dmaIdx
  let w := s.bufWord i
  let lvl := nextLevel s.out w
  let t := State.driveMirror { (s.emit (.seg s.out (s.arr.toNat + 1))).afterBufWord i with out := lvl } lvl
  State.requestUpdate { t with arr := w, dmaIdx := (i + 1) % s.params.n } i

/-- The body of UPDATE (41_tx_pipeline R150, R152). -/
def State.updateStep (s : State) : State :=
  if s.params.policy = .fault ∧ s.needsRefill = true then s.raise .txUnderrun else s.transfer

end Sys2Proof.Machine
end

