-- ==== Sys2Proof/Machine/Commands.lean ====
section
/-! DEFINITION. The host commands (spec/41_tx_pipeline.md R131 to R137, spec/42_rx_capture.md R171 to R174,
spec/43_host_access.md R193, R194). -/

namespace Sys2Proof.Machine

/-- START_TX (41_tx_pipeline R131, R132). -/
def State.startTx (s : State) : State :=
  if s.tstate = .idle ∧ s.regmode = true then s.prefillBegin else { s with lastResult := .rejected }

/-- The writes of STOP_TX after its chip answer (41_tx_pipeline R135). The buffer field stays; its host reads are draws
from now on (20_memory R76). -/
def State.closeTx (s : State) : State :=
  { s with
    txRun := false
    feedIe := false
    htPend := false
    tcPend := false
    out := false
    mirrorActive := false
    trace := s.trace ++ [.dutyLog s.dutyHigh s.dutyLow (dutyPct s.dutyHigh s.dutyLow)]
    tstate := .idle
    lastResult := .ok }

/-- STOP_TX (41_tx_pipeline R135, R136). -/
def State.stopTx (s : State) : State :=
  if s.tstate = .asyncTx then
    if s.chipGood then (s.afterChip .idle).closeTx else (s.afterChip .idle).raise .chipTimeout
  else s.raise .stopWrongState

/-- The writes of START_RX before its chip request (42_rx_capture R171). -/
def State.openRx (s : State) : State :=
  { s with cnt := 0, delta := 0, ccr1 := 0, ccr2 := 0, mirrorActive := s.mirrorEn }

/-- START_RX (42_rx_capture R171, R172). -/
def State.startRx (s : State) : State :=
  if s.tstate = .idle then
    if s.chipGood then { s.openRx.afterChip .rx with tstate := .asyncRx, lastResult := .ok }
    else (s.openRx.afterChip .rx).raise .chipTimeout
  else { s with lastResult := .rejected }

/-- STOP_RX (42_rx_capture R173, R174). -/
def State.stopRx (s : State) : State :=
  if s.tstate = .asyncRx then
    if s.chipGood then { s.afterChip .idle with mirrorActive := false, tstate := .idle, lastResult := .ok }
    else (s.afterChip .idle).raise .chipTimeout
  else s.raise .stopWrongState

/-- INIT (43_host_access R194). -/
def State.initCmd (s : State) : State :=
  if s.tstate = .asyncRx ∨ s.tstate = .asyncTx then { s with lastResult := .rejected }
  else { s.afterChip .selfTest with tstate := if s.chipGood then .idle else .faulty, lastResult := .ok }

/-- A command word written to CMD (43_host_access R193, R208): the reserved bits are checked before the opcode. -/
def State.command (s : State) (v : Word) : State :=
  if v.extractLsb' 8 24 = 0 then
    match v.extractLsb' 0 8 with
    | 0x01#8 => s.startTx
    | 0x02#8 => s.stopTx
    | 0x03#8 => s.startRx
    | 0x04#8 => s.stopRx
    | 0x05#8 => s.initCmd
    | _ => s.raise .illegalCommand
  else s.raise .illegalCommand

/-- START_TX (41_tx_pipeline R131). -/
def execStartTx (s : State) : Host.Outcome State Fault Refusal := hostStep s.startTx s

/-- STOP_TX (41_tx_pipeline R135). -/
def execStopTx (s : State) : Host.Outcome State Fault Refusal := hostStep s.stopTx s

/-- START_RX (42_rx_capture R171). -/
def execStartRx (s : State) : Host.Outcome State Fault Refusal := hostStep s.startRx s

/-- STOP_RX (42_rx_capture R173). -/
def execStopRx (s : State) : Host.Outcome State Fault Refusal := hostStep s.stopRx s

/-- INIT (43_host_access R194). -/
def execInit (s : State) : Host.Outcome State Fault Refusal := hostStep s.initCmd s

/-- WR CMD (43_host_access R193). -/
def execWrCmd (v : Word) (s : State) : Host.Outcome State Fault Refusal := hostStep (s.command v) s

end Sys2Proof.Machine
end

