-- ==== Sys2Proof/Machine/Feeder.lean ====
section
/-! DEFINITION. The timer's and the feeder's events (spec/41_tx_pipeline.md R145, R146, R150) and the encoder events
that a pull takes (spec/40_normalizer.md R112 to R119). -/

namespace Sys2Proof.Machine

/-- UPDATE (41_tx_pipeline R150). -/
def execUpdate (s : State) : Host.Outcome State Fault Refusal := takeStep s.updateEnabled s.updateStep s

/-- REFILL_BEGIN (41_tx_pipeline R145). -/
def execRefillBegin (s : State) : Host.Outcome State Fault Refusal := takeStep s.refillEnabled s.refillBegin s

/-- PULL (41_tx_pipeline R146), which takes its event from the encoder stream. -/
def execPull (s : State) : Host.Outcome State Fault Refusal := takeStep s.fillActive s.pullStep s

/-- The PULL whose `pull()` returns LEVEL(l, d) (40_normalizer R112 to R116, log 14). With a reset pending nothing is
pulled (R111), so the event finds no step. -/
def execLevel (l : Level) (d : Word) (s : State) : Host.Outcome State Fault Refusal :=
  takeStep s.takesEvent (s.pulled.applyGen (s.gen.level l d)) s

/-- The PULL whose `pull()` returns WAIT (40_normalizer R117, log 14). -/
def execWait (s : State) : Host.Outcome State Fault Refusal :=
  takeStep s.takesEvent (s.pulled.applyGen (s.gen.wait s.params.guardTime)) s

/-- The PULL whose `pull()` returns RESET (40_normalizer R118, log 14). -/
def execReset (s : State) : Host.Outcome State Fault Refusal :=
  takeStep s.takesEvent (s.pulled.applyGen s.gen.reset) s

/-- The PULL whose `pull()` returns the reserved event (40_normalizer R119, log 14). -/
def execBadReserved (s : State) : Host.Outcome State Fault Refusal :=
  takeStep s.takesEvent (s.pulled.applyGen s.gen.reserved) s

end Sys2Proof.Machine
end

