-- ==== Sys2Proof/Machine/Dispatch.lean ====
section
/-! DEFINITION. The meaning of every instruction, one arm per constructor. -/

namespace Sys2Proof.Machine

def exec (i : Instr) (s : State) : Host.Outcome State Fault Refusal :=
  match i with
  | .startTx => Sys2Proof.Machine.execStartTx s
  | .stopTx => Sys2Proof.Machine.execStopTx s
  | .startRx => Sys2Proof.Machine.execStartRx s
  | .stopRx => Sys2Proof.Machine.execStopRx s
  | .init => Sys2Proof.Machine.execInit s
  | .wrCmd v => Sys2Proof.Machine.execWrCmd v s
  | .rdStatus => Sys2Proof.Machine.execRdStatus s
  | .txComplete => Sys2Proof.Machine.execTxComplete s
  | .rdCfg => Sys2Proof.Machine.execRdCfg s
  | .wrCfg v => Sys2Proof.Machine.execWrCfg v s
  | .rdArr => Sys2Proof.Machine.execRdArr s
  | .rdDmaIdx => Sys2Proof.Machine.execRdDmaIdx s
  | .rdDutyHigh => Sys2Proof.Machine.execRdDutyHigh s
  | .rdDutyLow => Sys2Proof.Machine.execRdDutyLow s
  | .rdMwAcc => Sys2Proof.Machine.execRdMwAcc s
  | .rdCapDelta => Sys2Proof.Machine.execRdCapDelta s
  | .rdCapCcr1 => Sys2Proof.Machine.execRdCapCcr1 s
  | .rdCapCcr2 => Sys2Proof.Machine.execRdCapCcr2 s
  | .rdCnt => Sys2Proof.Machine.execRdCnt s
  | .rdBuf j => Sys2Proof.Machine.execRdBuf j s
  | .badAccess a => Sys2Proof.Machine.execBadAccess a s
  | .update => Sys2Proof.Machine.execUpdate s
  | .refillBegin => Sys2Proof.Machine.execRefillBegin s
  | .pull => Sys2Proof.Machine.execPull s
  | .edgeFall k => Sys2Proof.Machine.execEdgeFall k s
  | .edgeRise k => Sys2Proof.Machine.execEdgeRise k s
  | .level l d => Sys2Proof.Machine.execLevel l d s
  | .wait => Sys2Proof.Machine.execWait s
  | .reset => Sys2Proof.Machine.execReset s
  | .badReserved => Sys2Proof.Machine.execBadReserved s

end Sys2Proof.Machine
end

