-- ==== Sys2Proof/Machine/Fetch.lean ====
section
/-! DEFINITION. Which step comes next: the agenda, the free schedule and the host program (spec/00_scope.md R7,
spec/20_memory.md R70, spec/30_encoding.md R97, spec/43_host_access.md R191). -/

namespace Sys2Proof.Machine

/-- What the next slot comes to. -/
inductive Fetched where
  /-- An instruction, the state it runs in, and the host variable its read value goes to, if any. -/
  | run (i : Instr) (s : State) (var : Option Nat)
  /-- No step of the block, but the host computes: BNE or BEQ (30_encoding R97). -/
  | compute (s : State)
  /-- No step at all: the host has reached END, or waits for the feeder. -/
  | pass (s : State)
  /-- A packet that is no instruction. -/
  | refuse (e : DecodeError)
deriving DecidableEq, Repr

/-- Whether a packet is a HOST step. -/
def packetIsHost : Packet → Bool
  | .cmd _ => true
  | .mmio _ => true
  | .txQuery => true
  | .event _ _ => false
  | .encoder _ => false

/-- Whether a slot is a HOST step. -/
def slotIsHost : Slot → Bool
  | .fetch p => packetIsHost p
  | .turn .host => true
  | .turn _ => false

/-- The first slot that does not wait, and the agenda without it. While the feeder runs (`busy`), HOST slots wait in
their places: "It is neither lost nor faulted, and it is performed once the fill ends" (43_host_access R191, log 16). -/
def takeReady (busy : Bool) : List Slot → Option (Slot × List Slot)
  | [] => none
  | x :: xs =>
    if busy && slotIsHost x then (takeReady busy xs).map (fun r => (r.1, x :: r.2)) else some (x, xs)

/-- A packet decoded with the parameters of the state. -/
def fetchPacket (p : Packet) (var : Option Nat) (s : State) : Fetched :=
  match decode s.params p with
  | .ok i => .run i s var
  | .error e => .refuse e

/-- The value of a host variable; one never assigned is 0 (log 4). -/
def State.hostVar (s : State) (x : Nat) : Word := (s.hostVars.lookup x).getD 0

/-- A host variable assigned. -/
def State.setHostVar (s : State) (x : Nat) (v : Word) : State :=
  { s with hostVars := (x, v) :: s.hostVars.filter (fun y => y.1 != x) }

/-- The bus access of a statement on a register, of 4 bytes (30_encoding R97; 20_memory R64). -/
def hostAccess (base : Nat) (dir : Dir) (r : Reg) (v : Word) : Packet :=
  match dir with
  | .read => .mmio (.load (base + r.offset) 4)
  | .write => .mmio (.store (base + r.offset) (busBytes v))

/-- The next statement of the host program (30_encoding R97): one access, or one computation of the host's own, which
touches no block state. The program's place moves on as a statement is taken, before its access (log 4). The program is
over at END or past its last statement. -/
def hostStatement (s : State) : Fetched :=
  match s.hostProg[s.hostPc]? with
  | some (.wr r v) => fetchPacket (hostAccess s.params.base .write r v) none { s with hostPc := s.hostPc + 1 }
  | some (.rd r x) => fetchPacket (hostAccess s.params.base .read r 0) (some x) { s with hostPc := s.hostPc + 1 }
  | some (.bne x m v l) => .compute { s with hostPc := if s.hostVar x &&& m = v then s.hostPc + 1 else l }
  | some (.beq x m v l) => .compute { s with hostPc := if s.hostVar x &&& m = v then l else s.hostPc + 1 }
  | some .end_ => .pass s
  | none => .pass s

/-- A turn of an agent (00_scope R7). -/
def fetchTurn (t : Turn) (s : State) : Fetched :=
  match t with
  | .host => if s.busy then .pass s else hostStatement s
  | .timerDma => .run .update s none
  | .feeder => .run (if s.fillActive then .pull else .refillBegin) s none
  | .fall k => .run (.edgeFall k) s none
  | .rise k => .run (.edgeRise k) s none

/-- The next step: the first slot of the agenda that does not wait, or a turn of the free schedule. -/
def fetch (s : State) : Fetched :=
  match takeReady s.busy s.agenda with
  | some (.fetch p, rest) => fetchPacket p none { s with agenda := rest }
  | some (.turn t, rest) => fetchTurn t { s with agenda := rest }
  | none => fetchTurn (Config.schedule s.turns) { s with turns := s.turns + 1 }

/-- What a host read returned goes from the bus to the statement's variable (30_encoding R97, 20_memory R64). A read
that raised a fault returned nothing, and "the writes after this point are not made" (60_exceptions R221): its variable
keeps the value it had (log 22). -/
def latchRead (var : Option Nat) (o : Host.Outcome State Fault Refusal) : Host.Outcome State Fault Refusal :=
  match o, var with
  | .next s, some x => .next (if s.fault then s else s.setHostVar x (busWord s.readBytes))
  | .next s, none => .next s
  | .fault r, _ => .fault r
  | .refused r, _ => .refused r

/-- A decoding error as a refusal. -/
def refusalOf : DecodeError → Refusal
  | .unusedEventCode c => .unusedEventCode c

/-- The machine's step: stopped after a fault (60_exceptions R221), else the next step of the schedule. -/
def stepOnce (s : State) : Host.Outcome State Fault Refusal :=
  if s.fault then .fault (.stopped s.faultCode)
  else
    match fetch s with
    | .run i t var => latchRead var (exec i t)
    | .compute t => .next t
    | .pass t => .next t
    | .refuse e => .refused (refusalOf e)

/-- The packet of an opcode-table word placed first in the agenda, where `step` takes its next instruction. -/
def State.place (s : State) (nbits w : Nat) : State :=
  match tablePacket nbits w with
  | some p => { s with agenda := .fetch p :: s.agenda }
  | none => s

end Sys2Proof.Machine
end

