-- ==== Sys2Proof/Machine/Step.lean ====
section
/-! DEFINITION. The machine's step and where it takes its next instruction. -/

namespace Sys2Proof.Machine

/-- One step of the machine: one atomic step of one agent (20_memory R70). -/
def step : State → Host.Outcome State Fault Refusal := stepOnce

/-- The state with an opcode-table word first in the agenda (log 3). -/
def State.withFetchWord (s : State) (nbits w : Nat) : State := s.place nbits w

end Sys2Proof.Machine
end

