-- ==== Sys2Proof/Safety.lean ====
section
/-! DEFINITION. What claims speak of: readiness of the agents, when a step is enabled, the invariants of
spec/10_state.md R54 and spec/20_memory.md R72, the end of a run, fairness and hangs (spec/70_reset_and_hazards.md R267,
R268). -/

namespace Sys2Proof.Machine

/-! ### Agents -/

/-- Whether an instruction is a HOST step (00_scope R7). -/
def instrIsHost : Instr → Bool
  | .startTx | .stopTx | .startRx | .stopRx | .init | .wrCmd _ | .rdStatus | .txComplete | .rdCfg | .wrCfg _
  | .rdArr | .rdDmaIdx | .rdDutyHigh | .rdDutyLow | .rdMwAcc | .rdCapDelta | .rdCapCcr1 | .rdCapCcr2 | .rdCnt
  | .rdBuf _ | .badAccess _ => true
  | .update | .refillBegin | .pull | .edgeFall _ | .edgeRise _ | .level _ _ | .wait | .reset | .badReserved => false

/-- Whether an instruction is a FEEDER step that runs the generator: PULL, or the pull of a given event. -/
def instrIsPull : Instr → Bool
  | .pull | .level _ _ | .wait | .reset | .badReserved => true
  | .startTx | .stopTx | .startRx | .stopRx | .init | .wrCmd _ | .rdStatus | .txComplete | .rdCfg | .wrCfg _
  | .rdArr | .rdDmaIdx | .rdDutyHigh | .rdDutyLow | .rdMwAcc | .rdCapDelta | .rdCapCcr1 | .rdCapCcr2 | .rdCnt
  | .rdBuf _ | .badAccess _ | .update | .refillBegin | .edgeFall _ | .edgeRise _ => false

/-- Whether an instruction is an ENV step (00_scope R7). -/
def instrIsEdge : Instr → Bool
  | .edgeFall _ | .edgeRise _ => true
  | .startTx | .stopTx | .startRx | .stopRx | .init | .wrCmd _ | .rdStatus | .txComplete | .rdCfg | .wrCfg _
  | .rdArr | .rdDmaIdx | .rdDutyHigh | .rdDutyLow | .rdMwAcc | .rdCapDelta | .rdCapCcr1 | .rdCapCcr2 | .rdCnt
  | .rdBuf _ | .badAccess _ | .update | .refillBegin | .pull | .level _ _ | .wait | .reset | .badReserved => false

/-- Whether an instruction is a host read that the block answers (43_host_access R195 to R206), for parameters `p`. -/
def instrIsRead (p : Params) : Instr → Bool
  | .rdStatus | .txComplete | .rdCfg | .rdArr | .rdDmaIdx | .rdDutyHigh | .rdDutyLow | .rdMwAcc | .rdCapDelta
  | .rdCapCcr1 | .rdCapCcr2 | .rdCnt => true
  | .rdBuf i => decide (i < p.n)
  | .startTx | .stopTx | .startRx | .stopRx | .init | .wrCmd _ | .wrCfg _ | .badAccess _ | .update | .refillBegin
  | .pull | .edgeFall _ | .edgeRise _ | .level _ _ | .wait | .reset | .badReserved => false

/-- The HOST has a step (43_host_access R190 to R192). -/
abbrev State.hostReady (s : State) : Prop := s.fault = false ∧ s.busy = false

/-- Whether an instruction's step is enabled, the fault condition aside (41_tx_pipeline R145, R146, R150; 42_rx_capture
R175, R176; 43_host_access R190). Where it is not, the turn passes (log 2). -/
def enabledOf (i : Instr) (s : State) : Bool :=
  match i with
  | .update => s.updateEnabled
  | .refillBegin => s.refillEnabled
  | .pull => s.fillActive
  | .edgeFall _ | .edgeRise _ => s.edgeEnabled
  | .level _ _ | .wait | .reset | .badReserved => s.takesEvent
  | .startTx | .stopTx | .startRx | .stopRx | .init | .wrCmd _ | .rdStatus | .txComplete | .rdCfg | .wrCfg _
  | .rdArr | .rdDmaIdx | .rdDutyHigh | .rdDutyLow | .rdMwAcc | .rdCapDelta | .rdCapCcr1 | .rdCapCcr2 | .rdCnt
  | .rdBuf _ | .badAccess _ => !s.busy

/-! ### Invariants -/

/-- The invariants of 10_state R54, which hold while `s.fault` = 0. `s.busy = s.fill_active` is no clause: the two are
one field (log 17). -/
abbrev State.pipelineInv (s : State) : Prop :=
  s.dmaIdx < s.params.n ∧
  (s.fillActive = true → s.fillPos < s.fillEnd ∧ s.fillEnd ≤ s.params.n) ∧
  (s.txRun = true → s.tstate = .asyncTx) ∧
  (s.mirrorActive = true → s.tstate = .asyncTx ∨ s.tstate = .asyncRx) ∧
  (s.feedIe = false → s.htPend = false ∧ s.tcPend = false) ∧
  (s.fillActive = true ∧ s.fillKind = .prefill → s.tstate = .idle) ∧
  (s.fillActive = true ∧ s.fillKind = .refill → s.tstate = .asyncTx) ∧
  (s.halted = true → s.out = false)

/-- The buffer is in canonical form and lists only words 0 to N - 1 (20_memory R60); the second part needs the fill
range of R54. -/
abbrev State.bufferInv (s : State) : Prop := Memory.wf s.buf ∧ ∀ e ∈ s.buf, e.1 < s.params.n

/-- A dirty half is not being consumed (20_memory R72): the DMA stands at its start or in the other half. -/
abbrev State.raceInv (s : State) : Prop :=
  (s.dirty .first = true → s.dmaIdx = 0 ∨ s.params.half ≤ s.dmaIdx) ∧
  (s.dirty .second = true → s.dmaIdx ≤ s.params.half)

/-- The pull of instruction `i` at `s` emits the run `v` and leaves the generator at `g`: a level change in Running
(40_normalizer R116), a wait (R117), a reset (R118). -/
abbrev State.emitsBy (s : State) (i : Instr) (v : Word) (g : Gen) : Prop :=
  (∃ l d, i = .level l d ∧ s.mwState = .running ∧ l ≠ s.mwPol ∧ v = s.mwAcc ∧ g = ⟨.running, d, l⟩) ∨
  (i = .wait ∧ s.mwState ≠ .resetPending ∧ v = s.mwAcc + s.params.guardTime ∧ g = ⟨s.mwState, 0, !s.mwPol⟩) ∨
  (i = .reset ∧ s.mwState ≠ .resetPending ∧ v = s.mwAcc ∧ g = ⟨.resetPending, 0, false⟩)

/-- Word `i` lies in half `h` (10_state R29). -/
abbrev inHalf (p : Params) (h : Half) (i : Nat) : Prop :=
  match h with
  | .first => i < p.half
  | .second => p.half ≤ i ∧ i < p.n

/-! ### The end of a run (70_reset_and_hazards R267, R268) -/

/-- The host program has reached END, and no host access is left in the agenda. -/
def State.hostEnded (s : State) : Bool :=
  (s.hostProg[s.hostPc]? == none || s.hostProg[s.hostPc]? == some .end_) && s.agenda.all (fun x => !slotIsHost x)

/-- A final state: the host at END, no fault, no fill, UPDATE and REFILL_BEGIN neither enabled nor held. -/
def State.final (s : State) : Bool :=
  s.hostEnded && !s.fault && !s.fillActive && !s.updateDue && !s.refillEnabled

/-- Something is in flight: a fill, or a transmit session that still plays (R268). -/
def State.inFlight (s : State) : Bool := s.fillActive || s.updateDue

/-- The FEEDER has a step: it fills, or takes a request. -/
def State.feederEnabled (s : State) : Bool := s.fillActive || s.refillEnabled

/-- The step taken at `s` is an enabled step of instruction `i`. -/
def State.takes (s : State) (i : Instr) : Prop := ∃ t x, fetch s = .run i t x ∧ enabledOf i t = true

/-- The step taken at `s` is a step of the spec's: an enabled step of an agent, or a computation of the host. A turn that
passes is none; the spec has no such step (log 2). -/
def State.progresses (s : State) : Bool :=
  match fetch s with
  | .run i t _ => enabledOf i t
  | .compute _ => true
  | .pass _ => false
  | .refuse _ => false

/-- An infinite sequence of turns, some of which may pass. -/
def IsRun (r : Nat → State) : Prop := ∀ n, step (r n) = .next (r (n + 1))

/-- The sequence is an infinite run of the spec's once its passed turns are left out: it never stops making steps. A
sequence that only passes turns from some point on is a finite run. -/
def StepsForever (r : Nat → State) : Prop := ∀ n, ∃ m, n ≤ m ∧ (r m).progresses = true

/-- Weak fairness for TIMER_DMA and FEEDER (R267): a step that stays enabled is taken. None is asked for ENV and the
HOST. -/
def WeaklyFair (r : Nat → State) : Prop :=
  (∀ n, (∀ m, n ≤ m → (r m).updateEnabled = true) → ∃ m, n ≤ m ∧ (r m).takes .update) ∧
  (∀ n, (∀ m, n ≤ m → (r m).feederEnabled = true) →
    ∃ m, n ≤ m ∧ ((r m).takes .refillBegin ∨ ∃ i, instrIsPull i = true ∧ (r m).takes i))

/-- A hang (R267): "A weakly fair infinite run is a hang and refutes the observation." A run is over at a final state,
so a hang reaches none; a receive session left open at END is final, and edges after it make no hang. -/
def Hangs (r : Nat → State) : Prop :=
  IsRun r ∧ StepsForever r ∧ WeaklyFair r ∧ ∀ n, (r n).final = false

end Sys2Proof.Machine
end

