-- ==== Sys2Proof/Certificates/Slice0/Obligations.lean ====
section
/-! DEFINITION. The statements for the provers. Each docstring names the rule it states; a clause that rests on a choice
of the model names its log entry. -/

open Sys2Proof Sys2Proof.Machine

/-! ### Reset -/

/-- The values 10_state R53 gives for reset, field by field; the buffer lists no word, so every word of it is
unspecified (log 8). -/
def Obligations.ResetStateValues : Prop :=
  State.reset.tstate = .uninit ∧ State.reset.regmode = false ∧ State.reset.mirrorEn = false ∧
  State.reset.lastResult = .none ∧ State.reset.fault = false ∧ State.reset.faultCode = .none ∧
  State.reset.busy = false ∧ State.reset.buf = [] ∧ State.reset.dmaIdx = 0 ∧ State.reset.txRun = false ∧
  State.reset.out = false ∧ State.reset.feedIe = false ∧ State.reset.htPend = false ∧ State.reset.tcPend = false ∧
  State.reset.fillActive = false ∧ State.reset.fillZero = false ∧ State.reset.mwState = .idle ∧
  State.reset.mwAcc = 0 ∧ State.reset.mwPol = false ∧ State.reset.dutyHigh = 0 ∧ State.reset.dutyLow = 0 ∧
  State.reset.mirrorActive = false ∧ State.reset.mirror = false ∧ State.reset.cnt = 0 ∧ State.reset.delta = 0 ∧
  State.reset.ccr1 = 0 ∧ State.reset.ccr2 = 0 ∧ State.reset.encPos = 0 ∧ State.reset.trace = []

/-- Reset meets the constraints of 00_scope R8 and the invariants of 10_state R54 and 20_memory R60, R72, whatever the
OPEN parameters are (log 10). -/
def Obligations.ResetMeetsTheInvariants : Prop :=
  State.reset.params.wf ∧ State.reset.pipelineInv ∧ State.reset.bufferInv ∧ State.reset.raceInv

/-! ### Encoding -/

/-- Decoding an encoded well-formed instruction gives it back, for every instruction, every operand and every value of
the parameters (30_encoding R80 to R94). The packet of the completion query is the model's (log 12). -/
def Obligations.DecodeEncodeRoundTrip : Prop :=
  ∀ (p : Params) (i : Instr), i.wellFormed p = true → decode p (encode i) = .ok i

/-- The decoder gives only well-formed instructions. -/
def Obligations.DecodedInstructionsAreWellFormed : Prop :=
  ∀ (p : Params) (k : Packet) (i : Instr), decode p k = .ok i → i.wellFormed p = true

/-- Words written out from 30_encoding R81, R84, R90, R94 and 95_test_vectors, one of each format at least, decode to
the instructions they stand for. -/
def Obligations.SpecWordsDecode : Prop :=
  ∀ p : Params,
    decode p (.cmd 0x00000001#32) = .ok .startTx ∧ decode p (.cmd 0x00000005#32) = .ok .init ∧
    decode p (.mmio (.desc 0x1008#13 3#32)) = .ok (.wrCfg 3#32) ∧
    decode p (.mmio (.desc 0x0004#13 0#32)) = .ok .rdStatus ∧
    decode p (.mmio (.desc 0x0408#13 0#32)) = .ok (.rdBuf 2) ∧
    decode p (.mmio (.desc 0x1004#13 0#32)) = .ok (.badAccess (.desc 0x1004#13 0#32)) ∧
    decode p (.event 0x4#4 12#32) = .ok (.edgeFall 12#32) ∧
    decode p (.encoder ⟨0b00#2, true, 300#32⟩) = .ok (.level true 300#32) ∧
    decode p (.encoder ⟨0b11#2, true, 300#32⟩) = .ok .badReserved

/-- "Codes 0x0 and 0x6 to 0xF are unused" (30_encoding R94): they decode to no instruction and `step` refuses them by
name (log 19). -/
def Obligations.UnusedEventCodesAreRefused : Prop :=
  ∀ (s : State) (code : BitVec 4) (k : Word) (rest : List Slot),
    s.fault = false → s.agenda = .fetch (.event code k) :: rest → (code.toNat = 0 ∨ 6 ≤ code.toNat) →
    decode s.params (.event code k) = .error (.unusedEventCode code) ∧ step s = .refused (.unusedEventCode code)

/-- BAD_ACCESS (43_host_access R207): an access of the wrong size, misaligned, outside the window, at an unmapped offset
or in a direction the register does not allow raises the fault, with no other effect. The offsets are those of
30_encoding R82: reads at 0x004 to 0x02C and in the BUF window, writes at 0x000 and 0x008. The BAD_ACCESS instruction
does so for whatever access it carries. -/
def Obligations.EveryBadAccessFaults : Prop :=
  (∀ (s : State) (a : Access), s.hostReady →
    exec (.badAccess a) s =
      .next { s with fault := true, faultCode := .badAccess, trace := s.trace ++ [.fault .badAccess] }) ∧
  (∀ (s : State) (addr size : Nat), s.hostReady → s.params.wf →
    (size ≠ 4 ∨ addr % 4 ≠ 0 ∨ addr < s.params.base ∨ s.params.base + 0x1000 ≤ addr ∨
      (¬(s.params.base + 0x004 ≤ addr ∧ addr ≤ s.params.base + 0x02C) ∧
        ¬(s.params.base + 0x400 ≤ addr ∧ addr < s.params.base + 0x400 + 4 * s.params.n))) →
    ∃ i, decode s.params (.mmio (.load addr size)) = .ok i ∧
      exec i s = .next { s with fault := true, faultCode := .badAccess, trace := s.trace ++ [.fault .badAccess] }) ∧
  ∀ (s : State) (addr : Nat) (bytes : List Byte), s.hostReady → s.params.wf →
    (bytes.length ≠ 4 ∨ addr % 4 ≠ 0 ∨ addr < s.params.base ∨ s.params.base + 0x1000 ≤ addr ∨
      (addr ≠ s.params.base + 0x000 ∧ addr ≠ s.params.base + 0x008)) →
    ∃ i, decode s.params (.mmio (.store addr bytes)) = .ok i ∧
      exec i s = .next { s with fault := true, faultCode := .badAccess, trace := s.trace ++ [.fault .badAccess] }

/-- An aligned 4-byte access inside the window is the access of its 13-bit descriptor (30_encoding R81). The byte order is
little-endian (20_memory R64): the byte k of a store, at address addr + k, is bits 8k + 7 to 8k of the value written, and
the byte k of what a read returned is those bits of it. -/
def Obligations.BusAccessUsesItsDescriptor : Prop :=
  ∀ (p : Params) (off : Nat), p.wf → off < 0x1000 → off % 4 = 0 →
    decode p (.mmio (.load (p.base + off) 4)) = decode p (.mmio (.desc (BitVec.ofNat 13 off) 0)) ∧
    (∀ (v : Word) (bytes : List Byte),
      bytes = [v.extractLsb' 0 8, v.extractLsb' 8 8, v.extractLsb' 16 8, v.extractLsb' 24 8] →
      decode p (.mmio (.store (p.base + off) bytes)) = decode p (.mmio (.desc (BitVec.ofNat 13 (0x1000 + off)) v))) ∧
    ∀ (s : State) (k : Nat), k < 4 → s.readBytes[k]? = some (s.rdata.extractLsb' (8 * k) 8)

/-! ### The machine's step -/

/-- The step runs what the first slot of the agenda says (log 3), on the state without that slot and with nothing else
around it. A packet: the instruction it decodes to, a HOST packet only while the feeder does not run (43_host_access
R191). A turn of TIMER_DMA, of the FEEDER or of ENV: that agent's step (00_scope R7). A turn of the HOST while the feeder
does not run: the program's next statement (30_encoding R97). WR is a 4-byte store; RD is a 4-byte load whose value the
variable takes, unless the access raised a fault (log 22); BNE and BEQ move the program's place (log 4); at END nothing
happens. With no slot left the schedule gives the turn, and a turn of the HOST passes while the feeder runs. -/
def Obligations.StepRunsTheAgendaPacket : Prop :=
  ∀ s : State, s.fault = false →
    (∀ (k : Packet) (rest : List Slot) (i : Instr), s.agenda = .fetch k :: rest →
      (s.busy = true → packetIsHost k = false) → decode s.params k = .ok i → step s = exec i { s with agenda := rest }) ∧
    (∀ rest : List Slot, s.agenda = .turn .timerDma :: rest → step s = exec .update { s with agenda := rest }) ∧
    (∀ rest : List Slot, s.agenda = .turn .feeder :: rest →
      step s = exec (if s.fillActive = true then .pull else .refillBegin) { s with agenda := rest }) ∧
    (∀ (rest : List Slot) (k : Word), s.agenda = .turn (.fall k) :: rest →
      step s = exec (.edgeFall k) { s with agenda := rest }) ∧
    (∀ (rest : List Slot) (k : Word), s.agenda = .turn (.rise k) :: rest →
      step s = exec (.edgeRise k) { s with agenda := rest }) ∧
    (∀ rest : List Slot, s.busy = false → s.agenda = .turn .host :: rest →
      (∀ r v i, s.hostProg[s.hostPc]? = some (.wr r v) →
        decode s.params (.mmio (.store (s.params.base + r.offset)
          [v.extractLsb' 0 8, v.extractLsb' 8 8, v.extractLsb' 16 8, v.extractLsb' 24 8])) = .ok i →
        step s = exec i { s with agenda := rest, hostPc := s.hostPc + 1 }) ∧
      (∀ r x i t, s.hostProg[s.hostPc]? = some (.rd r x) →
        decode s.params (.mmio (.load (s.params.base + r.offset) 4)) = .ok i →
        exec i { s with agenda := rest, hostPc := s.hostPc + 1 } = .next t →
        ∃ u, step s = .next u ∧ (t.fault = true → u = t) ∧
          (t.fault = false → u = { t with hostVars := u.hostVars } ∧ u.hostVar x = t.rdata ∧
            ∀ y, y ≠ x → u.hostVar y = t.hostVar y)) ∧
      (∀ x m v l, s.hostProg[s.hostPc]? = some (.bne x m v l) →
        step s = .next { s with agenda := rest, hostPc := if s.hostVar x &&& m ≠ v then l else s.hostPc + 1 }) ∧
      (∀ x m v l, s.hostProg[s.hostPc]? = some (.beq x m v l) →
        step s = .next { s with agenda := rest, hostPc := if s.hostVar x &&& m = v then l else s.hostPc + 1 }) ∧
      (s.hostProg[s.hostPc]? = some .end_ ∨ s.hostProg[s.hostPc]? = none → step s = .next { s with agenda := rest })) ∧
    (s.agenda = [] →
      step s = if s.busy = true ∧ Config.schedule s.turns = .host then .next { s with turns := s.turns + 1 }
        else step { s with agenda := [.turn (Config.schedule s.turns)], turns := s.turns + 1 })

/-- After a fault no agent has a step (60_exceptions R221): every step and every meaning stops with the recorded code
(log 1). -/
def Obligations.NoStepAfterAFault : Prop :=
  ∀ s : State, s.fault = true →
    step s = .fault (.stopped s.faultCode) ∧ ∀ i : Instr, exec i s = .fault (.stopped s.faultCode)

/-- A host access or a turn of the HOST that waits for the feeder is not lost (43_host_access R191): it keeps its place at
the head of the agenda (log 16). -/
def Obligations.BusyHostAccessKeepsItsPlace : Prop :=
  ∀ (s t : State) (x : Slot) (rest : List Slot),
    s.busy = true → s.agenda = x :: rest → slotIsHost x = true → step s = .next t → ∃ rest', t.agenda = x :: rest'

/-! ### Invariants -/

/-- Every step keeps the invariants of 10_state R54, which are claimed of states without a fault. -/
def Obligations.PipelineInvariantKept : Prop :=
  ∀ s t : State, s.params.wf → (s.fault = false → s.pipelineInv) → step s = .next t → (t.fault = false → t.pipelineInv)

/-- Every step keeps the buffer in canonical form with words 0 to N - 1 only (20_memory R60). -/
def Obligations.BufferInvariantKept : Prop :=
  ∀ s t : State, s.pipelineInv → s.bufferInv → step s = .next t → t.bufferInv

/-- Every step keeps a dirty half out of the DMA's way (20_memory R71, R72). -/
def Obligations.RefillRaceInvariantKept : Prop :=
  ∀ s t : State, s.params.wf → s.dmaIdx < s.params.n → s.raceInv → step s = .next t → t.raceInv

/-- "While a REFILL of half h is active, UPDATE cannot transfer a word of half h" (20_memory R72): an UPDATE then has no
step, faults, or transfers a word of the other half. -/
def Obligations.RefilledHalfIsNotTransferred : Prop :=
  ∀ s t : State, s.dmaIdx < s.params.n → s.raceInv → s.fillActive = true → s.fillKind = .refill →
    exec .update s = .next t → t = s ∨ t.fault = true ∨ ¬inHalf s.params s.fillHalf s.dmaIdx

/-- Over every step the parameters stay (00_scope R8, log 10) and the trace only grows at its end (10_state R52). -/
def Obligations.ParametersStayAndTraceGrows : Prop :=
  ∀ s t : State, step s = .next t → t.params = s.params ∧ ∃ rs, t.trace = s.trace ++ rs

/-- "Only these rules write s.tstate" (10_state R22): INIT, the arm step of START_TX, STOP_TX, START_RX, STOP_RX, and
what each writes; and block reset, which writes UNINIT. -/
def Obligations.OnlyTheseInstructionsWriteTstate : Prop :=
  State.reset.tstate = .uninit ∧
  ∀ (i : Instr) (s t : State), exec i s = .next t → t.tstate ≠ s.tstate →
    ((i = .init ∨ i = .wrCmd 5#32) ∧ (t.tstate = .idle ∨ t.tstate = .faulty)) ∨
    (instrIsPull i = true ∧ s.fillActive = true ∧ s.fillKind = .prefill ∧ t.tstate = .asyncTx) ∨
    ((i = .stopTx ∨ i = .wrCmd 2#32) ∧ t.tstate = .idle) ∨
    ((i = .startRx ∨ i = .wrCmd 3#32) ∧ t.tstate = .asyncRx) ∨
    ((i = .stopRx ∨ i = .wrCmd 4#32) ∧ t.tstate = .idle)

/-! ### Frames over all instructions -/

/-- Transmit steps leave the receive fields alone, and edges leave the transmit fields alone (42_rx_capture R175, R176;
41_tx_pipeline R145, R146, R150). -/
def Obligations.TransmitAndReceiveStateAreSeparate : Prop :=
  ∀ (i : Instr) (s t : State), exec i s = .next t →
    ((i = .update ∨ i = .refillBegin ∨ instrIsPull i = true) →
      t.cnt = s.cnt ∧ t.delta = s.delta ∧ t.ccr1 = s.ccr1 ∧ t.ccr2 = s.ccr2) ∧
    (instrIsEdge i = true →
      t = { s with
        ccr1 := t.ccr1, ccr2 := t.ccr2, delta := t.delta, cnt := t.cnt, mirror := t.mirror, trace := t.trace,
        draws := t.draws })

/-- "Only the feeder writes it" (10_state R29): a pull writes at most the word at `fill_pos`, and every other
instruction leaves every word as it reads. START_TX, alone or as a command word, is left out: it makes every word
unspecified (log 8). -/
def Obligations.OnlyTheFeederWritesTheBuffer : Prop :=
  ∀ (i : Instr) (s t : State) (j : Nat), exec i s = .next t → i ≠ .startTx → i ≠ .wrCmd 1#32 →
    (instrIsPull i = true → j ≠ s.fillPos) → Memory.read t.buf j = Memory.read s.buf j

/-! ### Host reads and CFG -/

/-- Every host read the block answers completes and writes no state of the block (20_memory R67, 43_host_access R190):
only the value returned and, where the value is a draw, the count of draws (log 7, log 11). -/
def Obligations.HostReadsWriteNoBlockState : Prop :=
  ∀ (i : Instr) (s : State), instrIsRead s.params i = true → s.hostReady →
    ∃ (v : Word) (d : Nat), exec i s = .next { s with rdata := v, draws := d } ∧ (d = s.draws ∨ d = s.draws + 1)

/-- STATUS, field by field (30_encoding R86), with the code numbers of 10_state R21, R26, R37 and 60_exceptions R222. -/
def Obligations.StatusReadFields : Prop :=
  ∀ s : State, s.hostReady →
    ∃ w : Word, exec .rdStatus s = .next { s with rdata := w } ∧
      (w.extractLsb' 0 3).toNat =
        (match s.tstate with | .uninit => 0 | .faulty => 1 | .idle => 2 | .asyncRx => 3 | .asyncTx => 4) ∧
      w.getLsbD 3 = (s.tstate == .asyncTx && s.arr == 0) ∧
      (w.extractLsb' 4 2).toNat = (match s.mwState with | .idle => 0 | .resetPending => 1 | .running => 2) ∧
      w.getLsbD 6 = s.mwPol ∧ w.getLsbD 7 = s.fault ∧
      (w.extractLsb' 8 4).toNat =
        (match s.faultCode with
          | .none => 0 | .chipTimeout => 1 | .stopWrongState => 2 | .badEncoderEvent => 3 | .txUnderrun => 4
          | .illegalCommand => 5 | .badAccess => 6) ∧
      (w.extractLsb' 12 2).toNat = (match s.lastResult with | .none => 0 | .ok => 1 | .rejected => 2) ∧
      w.getLsbD 14 = s.feedIe ∧ w.getLsbD 15 = s.htPend ∧ w.getLsbD 16 = s.tcPend ∧ w.getLsbD 17 = s.fillActive ∧
      w.getLsbD 18 = s.txRun ∧ w.getLsbD 19 = s.out ∧ w.getLsbD 20 = s.mirrorActive ∧ w.getLsbD 21 = s.mirror ∧
      w.extractLsb' 22 10 = 0#10

/-- The completion query returns TX_COMPLETE(s) (41_tx_pipeline R138, 10_state R48), as 0 or 1 (log 11). -/
def Obligations.CompletionQueryValue : Prop :=
  ∀ s : State, s.hostReady →
    exec .txComplete s = .next { s with rdata := if s.tstate = .asyncTx ∧ s.arr = 0 then 1 else 0 }

/-- CFG holds bits 0 and 1 of what was written, nothing else changes, and it reads back those bits with zeros above
(30_encoding R87). -/
def Obligations.CfgReadsBackWhatWasWritten : Prop :=
  ∀ (s : State) (v : Word), s.hostReady →
    ∃ t, exec (.wrCfg v) s = .next t ∧ t = { s with regmode := v.getLsbD 0, mirrorEn := v.getLsbD 1 } ∧
      exec .rdCfg t = .next { t with rdata := v &&& 0x00000003#32 }

/-- ARR and DMA_IDX read their fields in ASYNC_TX and a draw elsewhere, DMA_IDX one below N (43_host_access R197,
R198). -/
def Obligations.TimerReads : Prop :=
  ∀ s : State, s.hostReady → s.params.wf → s.dmaIdx < s.params.n →
    exec .rdArr s = .next (if s.tstate = .asyncTx then { s with rdata := s.arr }
      else { s with rdata := Config.draw s.draws, draws := s.draws + 1 }) ∧
    ∃ v : Word, v.toNat < s.params.n ∧ (s.tstate = .asyncTx → v.toNat = s.dmaIdx) ∧
      exec .rdDmaIdx s = .next (if s.tstate = .asyncTx then { s with rdata := v }
        else { s with rdata := v, draws := s.draws + 1 })

/-- DUTY_HIGH, DUTY_LOW and MW_ACC read their fields in every state (43_host_access R199 to R201). -/
def Obligations.DutyAndAccumulatorReads : Prop :=
  ∀ s : State, s.hostReady →
    exec .rdDutyHigh s = .next { s with rdata := s.dutyHigh } ∧
    exec .rdDutyLow s = .next { s with rdata := s.dutyLow } ∧
    exec .rdMwAcc s = .next { s with rdata := s.mwAcc }

/-- CAP_DELTA, CAP_CCR1 and CAP_CCR2 read their fields in ASYNC_RX and a draw elsewhere, CNT always a draw
(43_host_access R202 to R205). -/
def Obligations.CaptureReads : Prop :=
  ∀ s : State, s.hostReady →
    (s.tstate = .asyncRx →
      exec .rdCapDelta s = .next { s with rdata := s.delta } ∧ exec .rdCapCcr1 s = .next { s with rdata := s.ccr1 } ∧
      exec .rdCapCcr2 s = .next { s with rdata := s.ccr2 }) ∧
    (s.tstate ≠ .asyncRx → ∀ i, (i = .rdCapDelta ∨ i = .rdCapCcr1 ∨ i = .rdCapCcr2) →
      exec i s = .next { s with rdata := Config.draw s.draws, draws := s.draws + 1 }) ∧
    exec .rdCnt s = .next { s with rdata := Config.draw s.draws, draws := s.draws + 1 }

/-- BUF[i] (43_host_access R206): in ASYNC_TX the word, or a draw where no fill of the session wrote it (20_memory R77);
in every other state a draw; an index of N or more faults. -/
def Obligations.BufReads : Prop :=
  ∀ (s : State) (i : Nat), s.hostReady →
    (i < s.params.n → s.tstate = .asyncTx → ∀ w, Memory.read s.buf i = some w →
      exec (.rdBuf i) s = .next { s with rdata := w }) ∧
    (i < s.params.n → (s.tstate ≠ .asyncTx ∨ Memory.read s.buf i = none) →
      exec (.rdBuf i) s = .next { s with rdata := Config.draw s.draws, draws := s.draws + 1 }) ∧
    (s.params.n ≤ i →
      exec (.rdBuf i) s =
        .next { s with fault := true, faultCode := .badAccess, trace := s.trace ++ [.fault .badAccess] })

/-! ### Commands -/

/-- A write to CMD performs the command of its word, and completes wherever the host has a step; any other word faults
with no other effect (43_host_access R193, R208). -/
def Obligations.WrCmdPerformsTheCommand : Prop :=
  ∀ s : State,
    (∀ (w : Word) (i : Instr), s.hostReady → 1 ≤ w.toNat → w.toNat ≤ 5 → decode s.params (.cmd w) = .ok i →
      ∃ t, exec (.wrCmd w) s = .next t ∧ exec i s = .next t) ∧
    exec (.wrCmd 0x00000001#32) s = exec .startTx s ∧ exec (.wrCmd 0x00000002#32) s = exec .stopTx s ∧
    exec (.wrCmd 0x00000003#32) s = exec .startRx s ∧ exec (.wrCmd 0x00000004#32) s = exec .stopRx s ∧
    exec (.wrCmd 0x00000005#32) s = exec .init s ∧
    ∀ v : Word, s.hostReady → (v.toNat = 0 ∨ 6 ≤ v.toNat) →
      exec (.wrCmd v) s =
        .next { s with fault := true, faultCode := .illegalCommand, trace := s.trace ++ [.fault .illegalCommand] }

/-- A rejected START_TX writes only last_result (41_tx_pipeline R132). -/
def Obligations.StartTxRejected : Prop :=
  ∀ s : State, s.hostReady → (s.tstate ≠ .idle ∨ s.regmode = false) →
    exec .startTx s = .next { s with lastResult := .rejected }

/-- An accepted START_TX initialises the generator and the duty buckets and starts the pre-fill over words 0 to N - 1
(41_tx_pipeline R131, R133; 40_normalizer R123). That the buffer then lists no word is the model's form of 20_memory
R77 (log 8). -/
def Obligations.StartTxBeginsThePrefill : Prop :=
  ∀ s : State, s.hostReady → s.tstate = .idle → s.regmode = true →
    exec .startTx s = .next { s with
      mwState := .idle, mwAcc := 0, mwPol := false, dutyHigh := 0, dutyLow := 0,
      fillActive := true, fillKind := .prefill, fillPos := 0, fillEnd := 2 * s.params.half, fillZero := false,
      buf := [] }

/-- STOP_TX (41_tx_pipeline R135, R136): outside ASYNC_TX it faults; in ASYNC_TX the chip is asked to idle, and the
session ends with its duty record or the step faults. How an answer is taken up is log 6. -/
def Obligations.StopTxOutcomes : Prop :=
  ∀ s : State, s.hostReady →
    (s.tstate = .asyncTx → s.chipGood = true →
      exec .stopTx s = .next { s with
        chipIn := s.chipIn.tail, chips := s.chips + 1,
        txRun := false, feedIe := false, htPend := false, tcPend := false, out := false, mirrorActive := false,
        trace := s.trace ++ [.chip .idle .ok, .dutyLog s.dutyHigh s.dutyLow (dutyPct s.dutyHigh s.dutyLow)],
        tstate := .idle, lastResult := .ok }) ∧
    (s.tstate = .asyncTx → s.chipGood = false →
      exec .stopTx s = .next { s with
        chipIn := s.chipIn.tail, chips := s.chips + 1, fault := true, faultCode := .chipTimeout,
        trace := s.trace ++ [.chip .idle .timeout, .fault .chipTimeout] }) ∧
    (s.tstate ≠ .asyncTx →
      exec .stopTx s =
        .next { s with fault := true, faultCode := .stopWrongState, trace := s.trace ++ [.fault .stopWrongState] })

/-- START_RX (42_rx_capture R171, R172): rejected outside IDLE; in IDLE the capture fields are cleared and the session
starts, or the step faults after those writes. How an answer is taken up is log 6. -/
def Obligations.StartRxOutcomes : Prop :=
  ∀ s : State, s.hostReady →
    (s.tstate = .idle → s.chipGood = true →
      exec .startRx s = .next { s with
        chipIn := s.chipIn.tail, chips := s.chips + 1, cnt := 0, delta := 0, ccr1 := 0, ccr2 := 0,
        mirrorActive := s.mirrorEn, trace := s.trace ++ [.chip .rx .ok], tstate := .asyncRx, lastResult := .ok }) ∧
    (s.tstate = .idle → s.chipGood = false →
      exec .startRx s = .next { s with
        chipIn := s.chipIn.tail, chips := s.chips + 1, cnt := 0, delta := 0, ccr1 := 0, ccr2 := 0,
        mirrorActive := s.mirrorEn, fault := true, faultCode := .chipTimeout,
        trace := s.trace ++ [.chip .rx .timeout, .fault .chipTimeout] }) ∧
    (s.tstate ≠ .idle → exec .startRx s = .next { s with lastResult := .rejected })

/-- STOP_RX (42_rx_capture R173, R174). How an answer is taken up is log 6. -/
def Obligations.StopRxOutcomes : Prop :=
  ∀ s : State, s.hostReady →
    (s.tstate = .asyncRx → s.chipGood = true →
      exec .stopRx s = .next { s with
        chipIn := s.chipIn.tail, chips := s.chips + 1, mirrorActive := false,
        trace := s.trace ++ [.chip .idle .ok], tstate := .idle, lastResult := .ok }) ∧
    (s.tstate = .asyncRx → s.chipGood = false →
      exec .stopRx s = .next { s with
        chipIn := s.chipIn.tail, chips := s.chips + 1, fault := true, faultCode := .chipTimeout,
        trace := s.trace ++ [.chip .idle .timeout, .fault .chipTimeout] }) ∧
    (s.tstate ≠ .asyncRx →
      exec .stopRx s =
        .next { s with fault := true, faultCode := .stopWrongState, trace := s.trace ++ [.fault .stopWrongState] })

/-- INIT (43_host_access R194): rejected in a session, else the self test decides between IDLE and FAULTY. How an answer
is taken up is log 6. -/
def Obligations.InitOutcomes : Prop :=
  ∀ s : State, s.hostReady →
    ((s.tstate = .asyncRx ∨ s.tstate = .asyncTx) → exec .init s = .next { s with lastResult := .rejected }) ∧
    (s.tstate ≠ .asyncRx → s.tstate ≠ .asyncTx →
      exec .init s = .next { s with
        chipIn := s.chipIn.tail, chips := s.chips + 1, lastResult := .ok,
        tstate := if s.chipGood = true then .idle else .faulty,
        trace := s.trace ++ [.chip .selfTest (if s.chipGood = true then .pass else .fail)] })

/-! ### Timer and feeder -/

/-- UPDATE at a clean place (41_tx_pipeline R150, R153, R156): the segment, one DMA transfer of a written word, the
toggle or the idle level, the mirror, the index modulo N and the notifications; nothing else changes. -/
def Obligations.UpdateTransfersAWord : Prop :=
  ∀ (s : State) (w : Word) (lvl : Level),
    s.fault = false → s.tstate = .asyncTx → s.txRun = true → s.arr ≠ 0 → s.needsRefill = false →
    Memory.read s.buf s.dmaIdx = some w → lvl = (if w = 0 then false else !s.out) →
    exec .update s = .next { s with
      trace := s.trace ++ [.seg s.out (s.arr.toNat + 1)] ++ (if s.mirrorActive = true then [.mirror lvl] else []),
      out := lvl,
      mirror := if s.mirrorActive = true then lvl else s.mirror,
      arr := w,
      dmaIdx := (s.dmaIdx + 1) % s.params.n,
      htPend := s.htPend || (s.feedIe && decide (s.dmaIdx + 1 = s.params.half)),
      tcPend := s.tcPend || (s.feedIe && decide (s.dmaIdx + 1 = s.params.n)) }

/-- UPDATE at a word no fill of the session wrote transfers a draw (20_memory R77, log 8), whatever it is. -/
def Obligations.UpdateOfAnUnwrittenWord : Prop :=
  ∀ s : State,
    s.fault = false → s.tstate = .asyncTx → s.txRun = true → s.arr ≠ 0 → s.needsRefill = false →
    Memory.read s.buf s.dmaIdx = none →
    ∃ t, exec .update s = .next t ∧ t.arr = Config.draw s.draws ∧ t.draws = s.draws + 1 ∧ t.buf = s.buf ∧
      t.out = (if Config.draw s.draws = 0 then false else !s.out) ∧ t.dmaIdx = (s.dmaIdx + 1) % s.params.n

/-- Under UNDERRUN_POLICY = fault an UPDATE at a half still to be refilled raises TX_UNDERRUN, with no segment and no
transfer (41_tx_pipeline R152). -/
def Obligations.UpdateUnderrunFaults : Prop :=
  ∀ s : State,
    s.fault = false → s.tstate = .asyncTx → s.txRun = true → s.arr ≠ 0 → s.params.policy = .fault →
    ((s.dmaIdx = 0 ∧ (s.htPend = true ∨ (s.fillActive = true ∧ s.fillKind = .refill ∧ s.fillHalf = .first))) ∨
      (s.dmaIdx = s.params.half ∧
        (s.tcPend = true ∨ (s.fillActive = true ∧ s.fillKind = .refill ∧ s.fillHalf = .second)))) →
    exec .update s =
      .next { s with fault := true, faultCode := .txUnderrun, trace := s.trace ++ [.fault .txUnderrun] }

/-- Where an agent's step is not enabled it has no step: the turn passes (log 2). UPDATE outside a session, with the
timer off, halted, or held at a dirty half (41_tx_pipeline R150, R151, R154); REFILL_BEGIN and the pulls (R145, R146);
every HOST instruction while the feeder runs (43_host_access R191); the pull of a given event while a reset is pending, as
nothing is pulled then (40_normalizer R111, log 14). -/
def Obligations.DisabledStepsLeaveTheState : Prop :=
  ∀ s : State, s.fault = false →
    (s.busy = true → ∀ i, instrIsHost i = true → exec i s = .next s) ∧
    ((s.tstate ≠ .asyncTx ∨ s.txRun = false ∨ s.arr = 0) → exec .update s = .next s) ∧
    (s.params.policy = .hold →
      ((s.dmaIdx = 0 ∧ (s.htPend = true ∨ (s.fillActive = true ∧ s.fillKind = .refill ∧ s.fillHalf = .first))) ∨
        (s.dmaIdx = s.params.half ∧
          (s.tcPend = true ∨ (s.fillActive = true ∧ s.fillKind = .refill ∧ s.fillHalf = .second)))) →
      exec .update s = .next s) ∧
    ((s.tstate ≠ .asyncTx ∨ s.fillActive = true ∨ (s.htPend = false ∧ s.tcPend = false)) →
      exec .refillBegin s = .next s) ∧
    (s.fillActive = false → ∀ i, instrIsPull i = true → exec i s = .next s) ∧
    (s.mwState = .resetPending → ∀ i, instrIsPull i = true → i ≠ .pull → exec i s = .next s)

/-- REFILL_BEGIN takes a pending request and starts the refill of its half; with both pending, the half the DMA reaches
next (41_tx_pipeline R145). -/
def Obligations.RefillBeginTakesTheDueHalf : Prop :=
  ∀ (s : State) (h : Half),
    s.fault = false → s.tstate = .asyncTx → s.fillActive = false → (s.htPend = true ∨ s.tcPend = true) →
    h = (if s.htPend = true ∧ s.tcPend = true then (if s.dmaIdx < s.params.half then .first else .second)
      else if s.htPend = true then .first else .second) →
    exec .refillBegin s = .next { s with
      htPend := if h = .first then false else s.htPend,
      tcPend := if h = .first then s.tcPend else false,
      fillActive := true, fillKind := .refill, fillHalf := h,
      fillPos := if h = .first then 0 else s.params.half,
      fillEnd := if h = .first then s.params.half else 2 * s.params.half,
      fillZero := false }

/-- A PULL with no reset pending pulls exactly one event, the stream's next, and does what that event's rule says
(40_normalizer R112). -/
def Obligations.PullTakesTheNextEvent : Prop :=
  ∀ (s : State) (w : EncWord), s.mwState ≠ .resetPending → s.encIn.headD (Config.encoder s.encPos) = w →
    exec .pull s = exec (decodeEncoder w) s

/-- A PULL with a reset pending pulls nothing and writes the terminator, which ends a refill (40_normalizer R111,
41_tx_pipeline R148, R149). -/
def Obligations.PullWithResetPendingEndsTheRefill : Prop :=
  ∀ s : State, s.fault = false → s.fillActive = true → s.fillKind = .refill → s.mwState = .resetPending →
    exec .pull s = .next { s with
      buf := Memory.write s.buf s.fillPos 0, fillZero := true, feedIe := false, htPend := false, tcPend := false,
      fillActive := false }

/-- LEVEL without an emission (40_normalizer R113 to R115): dropped in Idle at the current level, starting a run in Idle
at the other level, added modulo 2^32 in Running at the same level. One event is pulled. -/
def Obligations.LevelCollectsARun : Prop :=
  ∀ (s : State) (l : Level) (d : Word), s.fault = false → s.fillActive = true →
    (s.mwState = .idle → l = s.mwPol →
      exec (.level l d) s = .next { s with encIn := s.encIn.tail, encPos := s.encPos + 1 }) ∧
    (s.mwState = .idle → l ≠ s.mwPol →
      exec (.level l d) s = .next { s with
        encIn := s.encIn.tail, encPos := s.encPos + 1, mwState := .running, mwPol := l, mwAcc := d }) ∧
    (s.mwState = .running → l = s.mwPol →
      exec (.level l d) s = .next { s with
        encIn := s.encIn.tail, encPos := s.encPos + 1, mwAcc := s.mwAcc + d })

/-- LEVEL with a level change (40_normalizer R116) inside a fill: the run collected so far is written as ENC(v), added to
the duty bucket of its position's parity, and the new run begins (41_tx_pipeline R147). -/
def Obligations.LevelChangeEmitsTheRun : Prop :=
  ∀ (s : State) (l : Level) (d : Word),
    s.fault = false → s.fillActive = true → s.mwState = .running → l ≠ s.mwPol → s.mwAcc ≠ 0 →
    s.fillPos + 1 ≠ s.fillEnd →
    exec (.level l d) s = .next { s with
      encIn := s.encIn.tail, encPos := s.encPos + 1, mwPol := l, mwAcc := d,
      buf := Memory.write s.buf s.fillPos (encReload s.mwAcc),
      dutyHigh := if s.fillPos % 2 = 0 then s.dutyHigh + s.mwAcc else s.dutyHigh,
      dutyLow := if s.fillPos % 2 = 0 then s.dutyLow else s.dutyLow + s.mwAcc,
      fillPos := s.fillPos + 1 }

/-- WAIT (40_normalizer R117) inside a fill, in Idle and in Running alike: the run and GUARD are emitted, the polarity
flips, the state stays. -/
def Obligations.WaitEmitsTheGuardedRun : Prop :=
  ∀ (s : State) (v : Word),
    s.fault = false → s.fillActive = true → s.mwState ≠ .resetPending → v = s.mwAcc + s.params.guardTime → v ≠ 0 →
    s.fillPos + 1 ≠ s.fillEnd →
    exec .wait s = .next { s with
      encIn := s.encIn.tail, encPos := s.encPos + 1, mwPol := !s.mwPol, mwAcc := 0,
      buf := Memory.write s.buf s.fillPos (encReload v),
      dutyHigh := if s.fillPos % 2 = 0 then s.dutyHigh + v else s.dutyHigh,
      dutyLow := if s.fillPos % 2 = 0 then s.dutyLow else s.dutyLow + v,
      fillPos := s.fillPos + 1 }

/-- RESET (40_normalizer R118) inside a fill with a pending run of either level: the run is flushed and a reset is
pending. -/
def Obligations.ResetFlushesTheRun : Prop :=
  ∀ s : State,
    s.fault = false → s.fillActive = true → s.mwState ≠ .resetPending → s.mwAcc ≠ 0 → s.fillPos + 1 ≠ s.fillEnd →
    exec .reset s = .next { s with
      encIn := s.encIn.tail, encPos := s.encPos + 1, mwState := .resetPending, mwPol := false, mwAcc := 0,
      buf := Memory.write s.buf s.fillPos (encReload s.mwAcc),
      dutyHigh := if s.fillPos % 2 = 0 then s.dutyHigh + s.mwAcc else s.dutyHigh,
      dutyLow := if s.fillPos % 2 = 0 then s.dutyLow else s.dutyLow + s.mwAcc,
      fillPos := s.fillPos + 1 }

/-- A run of length 0 in a refill is the terminator (40_normalizer R116 to R118, 41_tx_pipeline R148): whichever event
emitted it (log 14), it is added to no bucket, ends the fill, and clears the feed enable and both requests; the generator
is left as the event's rule says, and nothing else changes. -/
def Obligations.ZeroRunWritesTheTerminator : Prop :=
  ∀ (i : Instr) (s : State) (g : Gen),
    s.fault = false → s.fillActive = true → s.fillKind = .refill → s.emitsBy i 0 g →
    exec i s = .next { s with
      encIn := s.encIn.tail, encPos := s.encPos + 1, mwState := g.state, mwAcc := g.acc, mwPol := g.pol,
      buf := Memory.write s.buf s.fillPos 0, fillZero := true, feedIe := false, htPend := false, tcPend := false,
      fillActive := false }

/-- The run that fills the last word of the range ends a refill (41_tx_pipeline R147, R149), whichever event emitted it
(log 14): the word is ENC(v), the run is added to the bucket of its position's parity, one event is pulled, the generator
is left as the event's rule says (40_normalizer R116 to R118), the fill is over, and nothing else changes. -/
def Obligations.LastWordEndsTheRefill : Prop :=
  ∀ (i : Instr) (s : State) (v : Word) (g : Gen),
    s.fault = false → s.fillActive = true → s.fillKind = .refill → s.fillPos + 1 = s.fillEnd → v ≠ 0 →
    s.emitsBy i v g →
    exec i s = .next { s with
      encIn := s.encIn.tail, encPos := s.encPos + 1, mwState := g.state, mwAcc := g.acc, mwPol := g.pol,
      buf := Memory.write s.buf s.fillPos (encReload v),
      dutyHigh := if s.fillPos % 2 = 0 then s.dutyHigh + v else s.dutyHigh,
      dutyLow := if s.fillPos % 2 = 0 then s.dutyLow else s.dutyLow + v,
      fillPos := s.fillPos + 1, fillActive := false }

/-- The PULL that ends a pre-fill arms the timer (41_tx_pipeline R134, R149): a pull of any kind after which a pre-fill
is no longer active has armed it, and either the session runs or the chip timed out with the earlier writes standing. -/
def Obligations.EndOfPrefillArmsTheTimer : Prop :=
  ∀ (i : Instr) (s t : State),
    instrIsPull i = true → s.fillActive = true → s.fillKind = .prefill → exec i s = .next t → t.fillActive = false →
    t.out = false ∧ t.arr = s.params.lead ∧ t.dmaIdx = 0 ∧ t.htPend = false ∧ t.tcPend = false ∧
    t.feedIe = !t.fillZero ∧ t.mirrorActive = s.mirrorEn ∧ (s.mirrorEn = true → t.mirror = false) ∧ t.txRun = true ∧
    (s.chipGood = true →
      t.fault = false ∧ t.tstate = .asyncTx ∧ t.lastResult = .ok ∧
      t.trace = s.trace ++ (if s.mirrorEn = true then [.mirror false] else []) ++ [.chip .tx .ok]) ∧
    (s.chipGood = false →
      t.fault = true ∧ t.faultCode = .chipTimeout ∧ t.tstate = s.tstate ∧ t.lastResult = s.lastResult ∧
      t.trace = s.trace ++ (if s.mirrorEn = true then [.mirror false] else []) ++
        [.chip .tx .timeout, .fault .chipTimeout])

/-- A pre-fill ends with its terminator, and with a run exactly when the run takes the last word of the range
(41_tx_pipeline R147, R148, R149). The word is written, a run is added to the bucket of its position's parity and a
terminator to none, one event is pulled, and the generator is left as the event's rule says (40_normalizer R116 to R118,
log 14); with a reset pending nothing is pulled and the terminator is written (R111). What arming writes at the end is
41_tx_pipeline R134. -/
def Obligations.PullEndsThePrefillAtItsLastWord : Prop :=
  ∀ s : State, s.fault = false → s.fillActive = true → s.fillKind = .prefill →
    (∀ (i : Instr) (v : Word) (g : Gen), s.emitsBy i v g →
      ∃ t, exec i s = .next t ∧ t.encPos = s.encPos + 1 ∧ t.encIn = s.encIn.tail ∧ t.gen = g ∧
        (v = 0 → t.fillActive = false ∧ t.fillZero = true ∧ t.feedIe = false ∧
          t.buf = Memory.write s.buf s.fillPos 0 ∧ t.dutyHigh = s.dutyHigh ∧ t.dutyLow = s.dutyLow ∧
          t.fillPos = s.fillPos) ∧
        (v ≠ 0 → t.fillActive = decide (s.fillPos + 1 ≠ s.fillEnd) ∧ t.fillZero = s.fillZero ∧
          t.buf = Memory.write s.buf s.fillPos (encReload v) ∧
          t.dutyHigh = (if s.fillPos % 2 = 0 then s.dutyHigh + v else s.dutyHigh) ∧
          t.dutyLow = (if s.fillPos % 2 = 0 then s.dutyLow else s.dutyLow + v) ∧ t.fillPos = s.fillPos + 1)) ∧
    (s.mwState = .resetPending →
      ∃ t, exec .pull s = .next t ∧ t.encPos = s.encPos ∧ t.encIn = s.encIn ∧ t.gen = s.gen ∧ t.fillActive = false ∧
        t.fillZero = true ∧ t.feedIe = false ∧ t.buf = Memory.write s.buf s.fillPos 0 ∧ t.dutyHigh = s.dutyHigh ∧
        t.dutyLow = s.dutyLow ∧ t.fillPos = s.fillPos)

/-- The reserved encoder event faults before anything the fill would write (40_normalizer R119, 60_exceptions R223); the
event has been pulled. -/
def Obligations.ReservedEventFaults : Prop :=
  ∀ s : State, s.fault = false → s.fillActive = true → s.mwState ≠ .resetPending →
    exec .badReserved s = .next { s with
      encIn := s.encIn.tail, encPos := s.encPos + 1, fault := true, faultCode := .badEncoderEvent,
      trace := s.trace ++ [.fault .badEncoderEvent] }

/-- ENC (40_normalizer R120) and its properties (R121): 0 stays 0, a run is never a terminator, and the period is the
run's length from 2 ticks on. -/
def Obligations.ReloadEncoding : Prop :=
  ∀ v : Word,
    (v = 0 → encReload v = 0) ∧ (v = 1 → encReload v = 1) ∧ (2 ≤ v.toNat → (encReload v).toNat = v.toNat - 1) ∧
    (v ≠ 0 → 1 ≤ (encReload v).toNat) ∧ (2 ≤ v.toNat → (encReload v).toNat + 1 = v.toNat)

/-- The level alternation and terminator laws for one transition (40_normalizer R124, R125). With a reset pending the
transition emits 0 and keeps the state, whatever the event (R111); a reset emits the pending run and leaves a reset
pending (R118); a wait emits the run and GUARD and flips the polarity (R117); a level change in Running emits the run and
flips the polarity (R116); and no other event emits. -/
def Obligations.EmissionsAlternateInLevel : Prop :=
  ∀ (g : Gen) (guardTime : Word) (w : EncWord),
    (g.state = .resetPending → g.delta guardTime w = .emit 0 g) ∧
    (g.state ≠ .resetPending → w.kind = 0b10#2 → g.delta guardTime w = .emit g.acc ⟨.resetPending, 0, false⟩) ∧
    (g.state ≠ .resetPending → w.kind = 0b01#2 →
      g.delta guardTime w = .emit (g.acc + guardTime) ⟨g.state, 0, !g.pol⟩) ∧
    (g.state = .running → w.kind = 0b00#2 → w.level ≠ g.pol →
      g.delta guardTime w = .emit g.acc ⟨.running, w.duration, !g.pol⟩) ∧
    ∀ (g' : Gen) (v : Word), g.delta guardTime w = .emit v g' → g.state ≠ .resetPending → w.kind ≠ 0b10#2 →
      g'.pol = !g.pol ∧ g'.state = g.state ∧
      (w.kind = 0b01#2 ∨ (w.kind = 0b00#2 ∧ g.state = .running ∧ w.level ≠ g.pol))

/-! ### Capture -/

/-- EDGE_FALL(k) below the counter's period (42_rx_capture R175, R179, R182): the count is captured, the counter runs on,
the mirror is driven low before the record. -/
def Obligations.EdgeFallCaptures : Prop :=
  ∀ (s : State) (k : Word), s.fault = false → s.tstate = .asyncRx → s.cnt.toNat + k.toNat < s.params.rxWrap →
    exec (.edgeFall k) s = .next { s with
      ccr1 := s.cnt + k, delta := s.cnt + k, cnt := s.cnt + k,
      mirror := if s.mirrorActive = true then false else s.mirror,
      trace := s.trace ++ (if s.mirrorActive = true then [.mirror false] else []) ++ [.cap true (s.cnt + k)] }

/-- EDGE_RISE(k) below the counter's period (42_rx_capture R176, R179, R182): the count is captured, the counter restarts,
the mirror is driven high before the record, which carries the difference to delta modulo 2^32. -/
def Obligations.EdgeRiseCaptures : Prop :=
  ∀ (s : State) (k : Word), s.fault = false → s.tstate = .asyncRx → s.cnt.toNat + k.toNat < s.params.rxWrap →
    exec (.edgeRise k) s = .next { s with
      ccr2 := s.cnt + k, cnt := 0,
      mirror := if s.mirrorActive = true then true else s.mirror,
      trace := s.trace ++ (if s.mirrorActive = true then [.mirror true] else []) ++
        [.cap false (s.cnt + k - s.delta)] }

/-- A count that would reach RX_WRAP is captured as some value below it (42_rx_capture R179), whatever it is (log 7). -/
def Obligations.WrappedCaptureStaysBelowThePeriod : Prop :=
  ∀ (s : State) (k : Word), s.fault = false → s.params.wf → s.tstate = .asyncRx →
    s.params.rxWrap ≤ s.cnt.toNat + k.toNat →
    ∃ c : Word, c.toNat < s.params.rxWrap ∧
      (∃ t, exec (.edgeFall k) s = .next t ∧ t.ccr1 = c ∧ t.delta = c ∧ t.cnt = c ∧ t.draws = s.draws + 1 ∧
        ∃ l, t.trace = s.trace ++ l ++ [.cap true c]) ∧
      (∃ t, exec (.edgeRise k) s = .next t ∧ t.ccr2 = c ∧ t.delta = s.delta ∧ t.cnt = 0 ∧ t.draws = s.draws + 1 ∧
        ∃ l, t.trace = s.trace ++ l ++ [.cap false (c - s.delta)])

/-- "A physical edge while the block is IDLE or transmitting changes no state and emits no record" (42_rx_capture
R180). -/
def Obligations.EdgesOutsideReceiveChangeNothing : Prop :=
  ∀ (s : State) (k : Word), s.fault = false → s.tstate ≠ .asyncRx →
    exec (.edgeFall k) s = .next s ∧ exec (.edgeRise k) s = .next s

/-- The duration law (42_rx_capture R181) for a fall, a rise and a fall with no wrap: the rise reports the ticks since the
fall, and the second fall the ticks since the rise. -/
def Obligations.AlternatingEdgesReportElapsedTicks : Prop :=
  ∀ (s : State) (k l m : Word),
    s.fault = false → s.params.wf → s.tstate = .asyncRx →
    s.cnt.toNat + k.toNat + l.toNat < s.params.rxWrap → m.toNat < s.params.rxWrap →
    ∃ t u v a b, exec (.edgeFall k) s = .next t ∧ exec (.edgeRise l) t = .next u ∧ exec (.edgeFall m) u = .next v ∧
      u.trace = t.trace ++ a ++ [.cap false l] ∧ v.trace = u.trace ++ b ++ [.cap true m]

/-! ### Sessions -/

/-- The duty percentage is the exact quotient, 0 for an empty session, and 50 for equal buckets (41_tx_pipeline R137,
R158). -/
def Obligations.DutyPercentage : Prop :=
  ∀ h l : Word,
    (h.toNat + l.toNat = 0 → dutyPct h l = 0) ∧
    (h.toNat + l.toNat ≠ 0 → dutyPct h l * ((h.toNat + l.toNat : Nat) : Rat) = ((h.toNat * 100 : Nat) : Rat)) ∧
    (h = l → h ≠ 0 → dutyPct h l = 50)

/-- "no deadlock can arise from the hold rules, because the FEEDER is always enabled while it has a dirty half to fill"
(70_reset_and_hazards R267): where UPDATE is held, REFILL_BEGIN starts a fill, or PULL pulls an event or ends the fill. -/
def Obligations.HeldUpdateHasAnEnabledFeeder : Prop :=
  ∀ s : State, s.fault = false → s.tstate = .asyncTx → s.txRun = true → s.arr ≠ 0 → s.params.policy = .hold →
    s.needsRefill = true →
    (s.fillActive = false ∧ ∃ t, exec .refillBegin s = .next t ∧ t.fillActive = true) ∨
    (s.fillActive = true ∧ ∃ t, exec .pull s = .next t ∧
      (t.encPos = s.encPos + 1 ∨ t.fillActive = false))

/-- After a STOP_TX that did not fault, no REFILL_BEGIN, PULL or UPDATE is enabled (41_tx_pipeline R159): the turn
passes (log 2). -/
def Obligations.QuietAfterStop : Prop :=
  ∀ s t : State, s.hostReady → exec .stopTx s = .next t → t.fault = false →
    exec .update t = .next t ∧ exec .refillBegin t = .next t ∧ exec .pull t = .next t
end

