-- ==== Sys2Proof/Laws/Decode.lean ====
section
/-! SUPPORT. The bus bytes, the register map and the descriptor, read back. -/

namespace Sys2Proof

/-- The four bytes of a value on the bus, read as a value, give it back (20_memory R64). -/
@[simp] theorem busWord_busBytes (v : Word) : busWord (busBytes v) = v := by
  apply BitVec.eq_of_toNat_eq
  simp only [busBytes, busWord, busByte, BitVec.toNat_ofNat, BitVec.extractLsb'_toNat, Nat.shiftRight_eq_div_pow]
  have := v.isLt
  omega

/-- Four bytes on the bus, read as a value and put back, are themselves. -/
theorem busBytes_busWord (a b c d : Byte) : busBytes (busWord [a, b, c, d]) = [a, b, c, d] := by
  have ha := a.isLt
  have hb := b.isLt
  have hc := c.isLt
  have hd := d.isLt
  simp only [busBytes, busWord, busByte, List.cons.injEq, and_true]
  refine ⟨?_, ?_, ?_, ?_⟩ <;> apply BitVec.eq_of_toNat_eq <;>
    simp only [BitVec.toNat_ofNat, BitVec.extractLsb'_toNat, Nat.shiftRight_eq_div_pow] <;> omega

/-- Every register stands at its own offset. -/
theorem regAt_offset (r : Reg) (h : ∀ i, r = .buf i → i < 256) : regAt r.offset = some r := by
  cases r
  case buf i =>
    have hi := h i rfl
    have h4 : (0x400 + 4 * i) / 4 = i + 256 := by omega
    have hm : (0x400 + 4 * i) % 4 = 0 := by omega
    simp only [regAt, Reg.offset, hm, if_true, h4, regAtWord]
    rw [if_pos (by omega)]
    simp
  all_goals rfl

theorem descDir_mkDesc (dir : Dir) (off : Nat) : descDir (mkDesc dir off) = dir := by
  cases dir
  · simp only [descDir, mkDesc, BitVec.toNat_ofNat]
    rw [if_neg (by omega)]
  · simp only [descDir, mkDesc, BitVec.toNat_ofNat]
    rw [if_pos (by omega)]

theorem descOff_mkDesc (dir : Dir) {off : Nat} (h : off < 0x1000) : descOff (mkDesc dir off) = off := by
  cases dir <;> simp only [descOff, mkDesc, BitVec.toNat_ofNat] <;> omega

/-- Every register's offset lies in the window. -/
theorem Reg.offset_lt (r : Reg) (h : ∀ i, r = .buf i → i < 256) : r.offset < 0x1000 := by
  cases r
  case buf i =>
    have hi := h i rfl
    simp only [Reg.offset]
    omega
  all_goals simp [Reg.offset]

/-- An access to a register decodes by the register and the direction. -/
theorem decodeDesc_mkDesc (dir : Dir) (r : Reg) (v : Word) (h : ∀ i, r = .buf i → i < 256) :
    decodeDesc (mkDesc dir r.offset) v =
      (regInstr dir r v).getD (.badAccess (.desc (mkDesc dir r.offset) v)) := by
  simp only [decodeDesc, descDir_mkDesc, descOff_mkDesc dir (r.offset_lt h), regAt_offset r h, Option.bind_some]
  cases regInstr dir r v <;> rfl

end Sys2Proof
end

