-- ==== Sys2Proof/Laws/Memory.lean ====
section
/-! SUPPORT. The reload buffer: reads after writes, and the canonical form. -/

namespace Sys2Proof.Machine

@[simp] theorem Memory.read_nil (i : Nat) : Memory.read [] i = none := rfl

theorem Memory.wf_nil : Memory.wf [] := List.Pairwise.nil

/-- Below the first index nothing is listed. -/
theorem Memory.read_eq_none_of_lt (m : Memory) (i : Nat) (h : ∀ e ∈ m, i < e.1) : Memory.read m i = none := by
  induction m with
  | nil => rfl
  | cons e m ih =>
    obtain ⟨j, w⟩ := e
    have hj : i < j := h (j, w) (by simp)
    simp only [Memory.read, Nat.ne_of_gt hj, if_false]
    exact ih fun e he => h e (by simp [he])

/-- A write adds the written index and no other. -/
theorem Memory.mem_write {m : Memory} {i : Nat} {v : Word} {e : Nat × Word} (h : e ∈ Memory.write m i v) :
    e = (i, v) ∨ e ∈ m := by
  induction m with
  | nil => simpa [Memory.write] using h
  | cons x m ih =>
    obtain ⟨j, w⟩ := x
    unfold Memory.write at h
    split at h
    · simpa using h
    · split at h
      · simp at h ⊢; tauto
      · simp only [List.mem_cons] at h ⊢
        rcases h with h | h
        · exact .inr (.inl h)
        · rcases ih h with h | h
          · exact .inl h
          · exact .inr (.inr h)

/-- A write keeps the canonical form. -/
theorem Memory.wf_write {m : Memory} (i : Nat) (v : Word) (h : Memory.wf m) : Memory.wf (Memory.write m i v) := by
  induction m with
  | nil => simp [Memory.wf, Memory.write]
  | cons x m ih =>
    obtain ⟨j, w⟩ := x
    obtain ⟨hx, hm⟩ := List.pairwise_cons.mp h
    unfold Memory.write
    split
    · rename_i hij
      refine List.pairwise_cons.mpr ⟨fun e he => ?_, h⟩
      rcases List.mem_cons.mp he with rfl | he
      · exact hij
      · exact Nat.lt_trans hij (hx e he)
    · split
      · rename_i hij
        subst hij
        exact List.pairwise_cons.mpr ⟨hx, hm⟩
      · refine List.pairwise_cons.mpr ⟨fun e he => ?_, ih hm⟩
        rcases Memory.mem_write he with rfl | he
        · show j < i
          omega
        · exact hx e he

/-- A read after a write to the same word gives the value written. -/
theorem Memory.read_write_same (m : Memory) (i : Nat) (v : Word) : Memory.read (Memory.write m i v) i = some v := by
  induction m with
  | nil => simp [Memory.write, Memory.read]
  | cons x m ih =>
    obtain ⟨j, w⟩ := x
    unfold Memory.write
    split
    · simp [Memory.read]
    · split
      · simp [Memory.read]
      · rename_i h
        simp only [Memory.read, Ne.symm h, if_false]
        exact ih

/-- A write leaves every other word alone. -/
theorem Memory.read_write_other (m : Memory) {i j : Nat} (v : Word) (h : j ≠ i) :
    Memory.read (Memory.write m i v) j = Memory.read m j := by
  induction m with
  | nil => simp [Memory.write, Memory.read, Ne.symm h]
  | cons x m ih =>
    obtain ⟨k, w⟩ := x
    unfold Memory.write
    split
    · simp [Memory.read, Ne.symm h]
    · split
      · rename_i hk
        subst hk
        simp [Memory.read, Ne.symm h]
      · simp only [Memory.read, ih]

/-- Both reads after a write, in one equation. -/
theorem Memory.read_write (m : Memory) (i j : Nat) (v : Word) :
    Memory.read (Memory.write m i v) j = if j = i then some v else Memory.read m j := by
  split
  · rename_i h
    rw [h, Memory.read_write_same]
  · rename_i h
    exact Memory.read_write_other m v h

/-- The reset buffer is in canonical form. -/
theorem State.reset_buf_wf : Memory.wf State.reset.buf := Memory.wf_nil

end Sys2Proof.Machine
end

