-- ==== Sys2Proof/Laws/State.lean ====
section
/-! SUPPORT. What each shared update of the state does to each field: the fields it writes and, for every other field,
that it stays. -/

namespace Sys2Proof.Machine

/-! ### State.emit -/

@[simp] theorem State.emit_tstate (s : State) (r : Record) : (s.emit r).tstate = s.tstate := rfl
@[simp] theorem State.emit_regmode (s : State) (r : Record) : (s.emit r).regmode = s.regmode := rfl
@[simp] theorem State.emit_mirrorEn (s : State) (r : Record) : (s.emit r).mirrorEn = s.mirrorEn := rfl
@[simp] theorem State.emit_lastResult (s : State) (r : Record) : (s.emit r).lastResult = s.lastResult := rfl
@[simp] theorem State.emit_fault (s : State) (r : Record) : (s.emit r).fault = s.fault := rfl
@[simp] theorem State.emit_faultCode (s : State) (r : Record) : (s.emit r).faultCode = s.faultCode := rfl
@[simp] theorem State.emit_buf (s : State) (r : Record) : (s.emit r).buf = s.buf := rfl
@[simp] theorem State.emit_arr (s : State) (r : Record) : (s.emit r).arr = s.arr := rfl
@[simp] theorem State.emit_dmaIdx (s : State) (r : Record) : (s.emit r).dmaIdx = s.dmaIdx := rfl
@[simp] theorem State.emit_txRun (s : State) (r : Record) : (s.emit r).txRun = s.txRun := rfl
@[simp] theorem State.emit_out (s : State) (r : Record) : (s.emit r).out = s.out := rfl
@[simp] theorem State.emit_feedIe (s : State) (r : Record) : (s.emit r).feedIe = s.feedIe := rfl
@[simp] theorem State.emit_htPend (s : State) (r : Record) : (s.emit r).htPend = s.htPend := rfl
@[simp] theorem State.emit_tcPend (s : State) (r : Record) : (s.emit r).tcPend = s.tcPend := rfl
@[simp] theorem State.emit_fillActive (s : State) (r : Record) : (s.emit r).fillActive = s.fillActive := rfl
@[simp] theorem State.emit_fillKind (s : State) (r : Record) : (s.emit r).fillKind = s.fillKind := rfl
@[simp] theorem State.emit_fillPos (s : State) (r : Record) : (s.emit r).fillPos = s.fillPos := rfl
@[simp] theorem State.emit_fillEnd (s : State) (r : Record) : (s.emit r).fillEnd = s.fillEnd := rfl
@[simp] theorem State.emit_fillHalf (s : State) (r : Record) : (s.emit r).fillHalf = s.fillHalf := rfl
@[simp] theorem State.emit_fillZero (s : State) (r : Record) : (s.emit r).fillZero = s.fillZero := rfl
@[simp] theorem State.emit_mwState (s : State) (r : Record) : (s.emit r).mwState = s.mwState := rfl
@[simp] theorem State.emit_mwAcc (s : State) (r : Record) : (s.emit r).mwAcc = s.mwAcc := rfl
@[simp] theorem State.emit_mwPol (s : State) (r : Record) : (s.emit r).mwPol = s.mwPol := rfl
@[simp] theorem State.emit_dutyHigh (s : State) (r : Record) : (s.emit r).dutyHigh = s.dutyHigh := rfl
@[simp] theorem State.emit_dutyLow (s : State) (r : Record) : (s.emit r).dutyLow = s.dutyLow := rfl
@[simp] theorem State.emit_mirrorActive (s : State) (r : Record) : (s.emit r).mirrorActive = s.mirrorActive := rfl
@[simp] theorem State.emit_mirror (s : State) (r : Record) : (s.emit r).mirror = s.mirror := rfl
@[simp] theorem State.emit_cnt (s : State) (r : Record) : (s.emit r).cnt = s.cnt := rfl
@[simp] theorem State.emit_delta (s : State) (r : Record) : (s.emit r).delta = s.delta := rfl
@[simp] theorem State.emit_ccr1 (s : State) (r : Record) : (s.emit r).ccr1 = s.ccr1 := rfl
@[simp] theorem State.emit_ccr2 (s : State) (r : Record) : (s.emit r).ccr2 = s.ccr2 := rfl
@[simp] theorem State.emit_encPos (s : State) (r : Record) : (s.emit r).encPos = s.encPos := rfl
@[simp] theorem State.emit_trace (s : State) (r : Record) : (s.emit r).trace = s.trace ++ [r] := rfl
@[simp] theorem State.emit_params (s : State) (r : Record) : (s.emit r).params = s.params := rfl
@[simp] theorem State.emit_encIn (s : State) (r : Record) : (s.emit r).encIn = s.encIn := rfl
@[simp] theorem State.emit_chipIn (s : State) (r : Record) : (s.emit r).chipIn = s.chipIn := rfl
@[simp] theorem State.emit_chips (s : State) (r : Record) : (s.emit r).chips = s.chips := rfl
@[simp] theorem State.emit_draws (s : State) (r : Record) : (s.emit r).draws = s.draws := rfl
@[simp] theorem State.emit_agenda (s : State) (r : Record) : (s.emit r).agenda = s.agenda := rfl
@[simp] theorem State.emit_turns (s : State) (r : Record) : (s.emit r).turns = s.turns := rfl
@[simp] theorem State.emit_hostProg (s : State) (r : Record) : (s.emit r).hostProg = s.hostProg := rfl
@[simp] theorem State.emit_hostPc (s : State) (r : Record) : (s.emit r).hostPc = s.hostPc := rfl
@[simp] theorem State.emit_hostVars (s : State) (r : Record) : (s.emit r).hostVars = s.hostVars := rfl
@[simp] theorem State.emit_rdata (s : State) (r : Record) : (s.emit r).rdata = s.rdata := rfl

/-! ### State.raise -/

@[simp] theorem State.raise_tstate (s : State) (c : FaultCode) : (s.raise c).tstate = s.tstate := by
  unfold State.raise; split <;> rfl
@[simp] theorem State.raise_regmode (s : State) (c : FaultCode) : (s.raise c).regmode = s.regmode := by
  unfold State.raise; split <;> rfl
@[simp] theorem State.raise_mirrorEn (s : State) (c : FaultCode) : (s.raise c).mirrorEn = s.mirrorEn := by
  unfold State.raise; split <;> rfl
@[simp] theorem State.raise_lastResult (s : State) (c : FaultCode) : (s.raise c).lastResult = s.lastResult := by
  unfold State.raise; split <;> rfl
@[simp] theorem State.raise_fault (s : State) (c : FaultCode) : (s.raise c).fault = true := by
  unfold State.raise; split <;> simp_all
@[simp] theorem State.raise_faultCode (s : State) (c : FaultCode) :
    (s.raise c).faultCode = if s.fault then s.faultCode else c := by
  unfold State.raise; split <;> simp_all
@[simp] theorem State.raise_buf (s : State) (c : FaultCode) : (s.raise c).buf = s.buf := by
  unfold State.raise; split <;> rfl
@[simp] theorem State.raise_arr (s : State) (c : FaultCode) : (s.raise c).arr = s.arr := by
  unfold State.raise; split <;> rfl
@[simp] theorem State.raise_dmaIdx (s : State) (c : FaultCode) : (s.raise c).dmaIdx = s.dmaIdx := by
  unfold State.raise; split <;> rfl
@[simp] theorem State.raise_txRun (s : State) (c : FaultCode) : (s.raise c).txRun = s.txRun := by
  unfold State.raise; split <;> rfl
@[simp] theorem State.raise_out (s : State) (c : FaultCode) : (s.raise c).out = s.out := by
  unfold State.raise; split <;> rfl
@[simp] theorem State.raise_feedIe (s : State) (c : FaultCode) : (s.raise c).feedIe = s.feedIe := by
  unfold State.raise; split <;> rfl
@[simp] theorem State.raise_htPend (s : State) (c : FaultCode) : (s.raise c).htPend = s.htPend := by
  unfold State.raise; split <;> rfl
@[simp] theorem State.raise_tcPend (s : State) (c : FaultCode) : (s.raise c).tcPend = s.tcPend := by
  unfold State.raise; split <;> rfl
@[simp] theorem State.raise_fillActive (s : State) (c : FaultCode) : (s.raise c).fillActive = s.fillActive := by
  unfold State.raise; split <;> rfl
@[simp] theorem State.raise_fillKind (s : State) (c : FaultCode) : (s.raise c).fillKind = s.fillKind := by
  unfold State.raise; split <;> rfl
@[simp] theorem State.raise_fillPos (s : State) (c : FaultCode) : (s.raise c).fillPos = s.fillPos := by
  unfold State.raise; split <;> rfl
@[simp] theorem State.raise_fillEnd (s : State) (c : FaultCode) : (s.raise c).fillEnd = s.fillEnd := by
  unfold State.raise; split <;> rfl
@[simp] theorem State.raise_fillHalf (s : State) (c : FaultCode) : (s.raise c).fillHalf = s.fillHalf := by
  unfold State.raise; split <;> rfl
@[simp] theorem State.raise_fillZero (s : State) (c : FaultCode) : (s.raise c).fillZero = s.fillZero := by
  unfold State.raise; split <;> rfl
@[simp] theorem State.raise_mwState (s : State) (c : FaultCode) : (s.raise c).mwState = s.mwState := by
  unfold State.raise; split <;> rfl
@[simp] theorem State.raise_mwAcc (s : State) (c : FaultCode) : (s.raise c).mwAcc = s.mwAcc := by
  unfold State.raise; split <;> rfl
@[simp] theorem State.raise_mwPol (s : State) (c : FaultCode) : (s.raise c).mwPol = s.mwPol := by
  unfold State.raise; split <;> rfl
@[simp] theorem State.raise_dutyHigh (s : State) (c : FaultCode) : (s.raise c).dutyHigh = s.dutyHigh := by
  unfold State.raise; split <;> rfl
@[simp] theorem State.raise_dutyLow (s : State) (c : FaultCode) : (s.raise c).dutyLow = s.dutyLow := by
  unfold State.raise; split <;> rfl
@[simp] theorem State.raise_mirrorActive (s : State) (c : FaultCode) : (s.raise c).mirrorActive = s.mirrorActive := by
  unfold State.raise; split <;> rfl
@[simp] theorem State.raise_mirror (s : State) (c : FaultCode) : (s.raise c).mirror = s.mirror := by
  unfold State.raise; split <;> rfl
@[simp] theorem State.raise_cnt (s : State) (c : FaultCode) : (s.raise c).cnt = s.cnt := by
  unfold State.raise; split <;> rfl
@[simp] theorem State.raise_delta (s : State) (c : FaultCode) : (s.raise c).delta = s.delta := by
  unfold State.raise; split <;> rfl
@[simp] theorem State.raise_ccr1 (s : State) (c : FaultCode) : (s.raise c).ccr1 = s.ccr1 := by
  unfold State.raise; split <;> rfl
@[simp] theorem State.raise_ccr2 (s : State) (c : FaultCode) : (s.raise c).ccr2 = s.ccr2 := by
  unfold State.raise; split <;> rfl
@[simp] theorem State.raise_encPos (s : State) (c : FaultCode) : (s.raise c).encPos = s.encPos := by
  unfold State.raise; split <;> rfl
@[simp] theorem State.raise_trace (s : State) (c : FaultCode) :
    (s.raise c).trace = if s.fault then s.trace else s.trace ++ [.fault c] := by
  unfold State.raise; split <;> simp_all
@[simp] theorem State.raise_params (s : State) (c : FaultCode) : (s.raise c).params = s.params := by
  unfold State.raise; split <;> rfl
@[simp] theorem State.raise_encIn (s : State) (c : FaultCode) : (s.raise c).encIn = s.encIn := by
  unfold State.raise; split <;> rfl
@[simp] theorem State.raise_chipIn (s : State) (c : FaultCode) : (s.raise c).chipIn = s.chipIn := by
  unfold State.raise; split <;> rfl
@[simp] theorem State.raise_chips (s : State) (c : FaultCode) : (s.raise c).chips = s.chips := by
  unfold State.raise; split <;> rfl
@[simp] theorem State.raise_draws (s : State) (c : FaultCode) : (s.raise c).draws = s.draws := by
  unfold State.raise; split <;> rfl
@[simp] theorem State.raise_agenda (s : State) (c : FaultCode) : (s.raise c).agenda = s.agenda := by
  unfold State.raise; split <;> rfl
@[simp] theorem State.raise_turns (s : State) (c : FaultCode) : (s.raise c).turns = s.turns := by
  unfold State.raise; split <;> rfl
@[simp] theorem State.raise_hostProg (s : State) (c : FaultCode) : (s.raise c).hostProg = s.hostProg := by
  unfold State.raise; split <;> rfl
@[simp] theorem State.raise_hostPc (s : State) (c : FaultCode) : (s.raise c).hostPc = s.hostPc := by
  unfold State.raise; split <;> rfl
@[simp] theorem State.raise_hostVars (s : State) (c : FaultCode) : (s.raise c).hostVars = s.hostVars := by
  unfold State.raise; split <;> rfl
@[simp] theorem State.raise_rdata (s : State) (c : FaultCode) : (s.raise c).rdata = s.rdata := by
  unfold State.raise; split <;> rfl

/-! ### State.afterDraw -/

@[simp] theorem State.afterDraw_tstate (s : State) : (s.afterDraw).tstate = s.tstate := rfl
@[simp] theorem State.afterDraw_regmode (s : State) : (s.afterDraw).regmode = s.regmode := rfl
@[simp] theorem State.afterDraw_mirrorEn (s : State) : (s.afterDraw).mirrorEn = s.mirrorEn := rfl
@[simp] theorem State.afterDraw_lastResult (s : State) : (s.afterDraw).lastResult = s.lastResult := rfl
@[simp] theorem State.afterDraw_fault (s : State) : (s.afterDraw).fault = s.fault := rfl
@[simp] theorem State.afterDraw_faultCode (s : State) : (s.afterDraw).faultCode = s.faultCode := rfl
@[simp] theorem State.afterDraw_buf (s : State) : (s.afterDraw).buf = s.buf := rfl
@[simp] theorem State.afterDraw_arr (s : State) : (s.afterDraw).arr = s.arr := rfl
@[simp] theorem State.afterDraw_dmaIdx (s : State) : (s.afterDraw).dmaIdx = s.dmaIdx := rfl
@[simp] theorem State.afterDraw_txRun (s : State) : (s.afterDraw).txRun = s.txRun := rfl
@[simp] theorem State.afterDraw_out (s : State) : (s.afterDraw).out = s.out := rfl
@[simp] theorem State.afterDraw_feedIe (s : State) : (s.afterDraw).feedIe = s.feedIe := rfl
@[simp] theorem State.afterDraw_htPend (s : State) : (s.afterDraw).htPend = s.htPend := rfl
@[simp] theorem State.afterDraw_tcPend (s : State) : (s.afterDraw).tcPend = s.tcPend := rfl
@[simp] theorem State.afterDraw_fillActive (s : State) : (s.afterDraw).fillActive = s.fillActive := rfl
@[simp] theorem State.afterDraw_fillKind (s : State) : (s.afterDraw).fillKind = s.fillKind := rfl
@[simp] theorem State.afterDraw_fillPos (s : State) : (s.afterDraw).fillPos = s.fillPos := rfl
@[simp] theorem State.afterDraw_fillEnd (s : State) : (s.afterDraw).fillEnd = s.fillEnd := rfl
@[simp] theorem State.afterDraw_fillHalf (s : State) : (s.afterDraw).fillHalf = s.fillHalf := rfl
@[simp] theorem State.afterDraw_fillZero (s : State) : (s.afterDraw).fillZero = s.fillZero := rfl
@[simp] theorem State.afterDraw_mwState (s : State) : (s.afterDraw).mwState = s.mwState := rfl
@[simp] theorem State.afterDraw_mwAcc (s : State) : (s.afterDraw).mwAcc = s.mwAcc := rfl
@[simp] theorem State.afterDraw_mwPol (s : State) : (s.afterDraw).mwPol = s.mwPol := rfl
@[simp] theorem State.afterDraw_dutyHigh (s : State) : (s.afterDraw).dutyHigh = s.dutyHigh := rfl
@[simp] theorem State.afterDraw_dutyLow (s : State) : (s.afterDraw).dutyLow = s.dutyLow := rfl
@[simp] theorem State.afterDraw_mirrorActive (s : State) : (s.afterDraw).mirrorActive = s.mirrorActive := rfl
@[simp] theorem State.afterDraw_mirror (s : State) : (s.afterDraw).mirror = s.mirror := rfl
@[simp] theorem State.afterDraw_cnt (s : State) : (s.afterDraw).cnt = s.cnt := rfl
@[simp] theorem State.afterDraw_delta (s : State) : (s.afterDraw).delta = s.delta := rfl
@[simp] theorem State.afterDraw_ccr1 (s : State) : (s.afterDraw).ccr1 = s.ccr1 := rfl
@[simp] theorem State.afterDraw_ccr2 (s : State) : (s.afterDraw).ccr2 = s.ccr2 := rfl
@[simp] theorem State.afterDraw_encPos (s : State) : (s.afterDraw).encPos = s.encPos := rfl
@[simp] theorem State.afterDraw_trace (s : State) : (s.afterDraw).trace = s.trace := rfl
@[simp] theorem State.afterDraw_params (s : State) : (s.afterDraw).params = s.params := rfl
@[simp] theorem State.afterDraw_encIn (s : State) : (s.afterDraw).encIn = s.encIn := rfl
@[simp] theorem State.afterDraw_chipIn (s : State) : (s.afterDraw).chipIn = s.chipIn := rfl
@[simp] theorem State.afterDraw_chips (s : State) : (s.afterDraw).chips = s.chips := rfl
@[simp] theorem State.afterDraw_draws (s : State) : (s.afterDraw).draws = s.draws + 1 := rfl
@[simp] theorem State.afterDraw_agenda (s : State) : (s.afterDraw).agenda = s.agenda := rfl
@[simp] theorem State.afterDraw_turns (s : State) : (s.afterDraw).turns = s.turns := rfl
@[simp] theorem State.afterDraw_hostProg (s : State) : (s.afterDraw).hostProg = s.hostProg := rfl
@[simp] theorem State.afterDraw_hostPc (s : State) : (s.afterDraw).hostPc = s.hostPc := rfl
@[simp] theorem State.afterDraw_hostVars (s : State) : (s.afterDraw).hostVars = s.hostVars := rfl
@[simp] theorem State.afterDraw_rdata (s : State) : (s.afterDraw).rdata = s.rdata := rfl

/-! ### State.afterBufWord -/

@[simp] theorem State.afterBufWord_tstate (s : State) (i : Nat) : (s.afterBufWord i).tstate = s.tstate := by
  unfold State.afterBufWord; split <;> rfl
@[simp] theorem State.afterBufWord_regmode (s : State) (i : Nat) : (s.afterBufWord i).regmode = s.regmode := by
  unfold State.afterBufWord; split <;> rfl
@[simp] theorem State.afterBufWord_mirrorEn (s : State) (i : Nat) : (s.afterBufWord i).mirrorEn = s.mirrorEn := by
  unfold State.afterBufWord; split <;> rfl
@[simp] theorem State.afterBufWord_lastResult (s : State) (i : Nat) :
    (s.afterBufWord i).lastResult = s.lastResult := by
  unfold State.afterBufWord; split <;> rfl
@[simp] theorem State.afterBufWord_fault (s : State) (i : Nat) : (s.afterBufWord i).fault = s.fault := by
  unfold State.afterBufWord; split <;> rfl
@[simp] theorem State.afterBufWord_faultCode (s : State) (i : Nat) : (s.afterBufWord i).faultCode = s.faultCode := by
  unfold State.afterBufWord; split <;> rfl
@[simp] theorem State.afterBufWord_buf (s : State) (i : Nat) : (s.afterBufWord i).buf = s.buf := by
  unfold State.afterBufWord; split <;> rfl
@[simp] theorem State.afterBufWord_arr (s : State) (i : Nat) : (s.afterBufWord i).arr = s.arr := by
  unfold State.afterBufWord; split <;> rfl
@[simp] theorem State.afterBufWord_dmaIdx (s : State) (i : Nat) : (s.afterBufWord i).dmaIdx = s.dmaIdx := by
  unfold State.afterBufWord; split <;> rfl
@[simp] theorem State.afterBufWord_txRun (s : State) (i : Nat) : (s.afterBufWord i).txRun = s.txRun := by
  unfold State.afterBufWord; split <;> rfl
@[simp] theorem State.afterBufWord_out (s : State) (i : Nat) : (s.afterBufWord i).out = s.out := by
  unfold State.afterBufWord; split <;> rfl
@[simp] theorem State.afterBufWord_feedIe (s : State) (i : Nat) : (s.afterBufWord i).feedIe = s.feedIe := by
  unfold State.afterBufWord; split <;> rfl
@[simp] theorem State.afterBufWord_htPend (s : State) (i : Nat) : (s.afterBufWord i).htPend = s.htPend := by
  unfold State.afterBufWord; split <;> rfl
@[simp] theorem State.afterBufWord_tcPend (s : State) (i : Nat) : (s.afterBufWord i).tcPend = s.tcPend := by
  unfold State.afterBufWord; split <;> rfl
@[simp] theorem State.afterBufWord_fillActive (s : State) (i : Nat) :
    (s.afterBufWord i).fillActive = s.fillActive := by
  unfold State.afterBufWord; split <;> rfl
@[simp] theorem State.afterBufWord_fillKind (s : State) (i : Nat) : (s.afterBufWord i).fillKind = s.fillKind := by
  unfold State.afterBufWord; split <;> rfl
@[simp] theorem State.afterBufWord_fillPos (s : State) (i : Nat) : (s.afterBufWord i).fillPos = s.fillPos := by
  unfold State.afterBufWord; split <;> rfl
@[simp] theorem State.afterBufWord_fillEnd (s : State) (i : Nat) : (s.afterBufWord i).fillEnd = s.fillEnd := by
  unfold State.afterBufWord; split <;> rfl
@[simp] theorem State.afterBufWord_fillHalf (s : State) (i : Nat) : (s.afterBufWord i).fillHalf = s.fillHalf := by
  unfold State.afterBufWord; split <;> rfl
@[simp] theorem State.afterBufWord_fillZero (s : State) (i : Nat) : (s.afterBufWord i).fillZero = s.fillZero := by
  unfold State.afterBufWord; split <;> rfl
@[simp] theorem State.afterBufWord_mwState (s : State) (i : Nat) : (s.afterBufWord i).mwState = s.mwState := by
  unfold State.afterBufWord; split <;> rfl
@[simp] theorem State.afterBufWord_mwAcc (s : State) (i : Nat) : (s.afterBufWord i).mwAcc = s.mwAcc := by
  unfold State.afterBufWord; split <;> rfl
@[simp] theorem State.afterBufWord_mwPol (s : State) (i : Nat) : (s.afterBufWord i).mwPol = s.mwPol := by
  unfold State.afterBufWord; split <;> rfl
@[simp] theorem State.afterBufWord_dutyHigh (s : State) (i : Nat) : (s.afterBufWord i).dutyHigh = s.dutyHigh := by
  unfold State.afterBufWord; split <;> rfl
@[simp] theorem State.afterBufWord_dutyLow (s : State) (i : Nat) : (s.afterBufWord i).dutyLow = s.dutyLow := by
  unfold State.afterBufWord; split <;> rfl
@[simp] theorem State.afterBufWord_mirrorActive (s : State) (i : Nat) :
    (s.afterBufWord i).mirrorActive = s.mirrorActive := by
  unfold State.afterBufWord; split <;> rfl
@[simp] theorem State.afterBufWord_mirror (s : State) (i : Nat) : (s.afterBufWord i).mirror = s.mirror := by
  unfold State.afterBufWord; split <;> rfl
@[simp] theorem State.afterBufWord_cnt (s : State) (i : Nat) : (s.afterBufWord i).cnt = s.cnt := by
  unfold State.afterBufWord; split <;> rfl
@[simp] theorem State.afterBufWord_delta (s : State) (i : Nat) : (s.afterBufWord i).delta = s.delta := by
  unfold State.afterBufWord; split <;> rfl
@[simp] theorem State.afterBufWord_ccr1 (s : State) (i : Nat) : (s.afterBufWord i).ccr1 = s.ccr1 := by
  unfold State.afterBufWord; split <;> rfl
@[simp] theorem State.afterBufWord_ccr2 (s : State) (i : Nat) : (s.afterBufWord i).ccr2 = s.ccr2 := by
  unfold State.afterBufWord; split <;> rfl
@[simp] theorem State.afterBufWord_encPos (s : State) (i : Nat) : (s.afterBufWord i).encPos = s.encPos := by
  unfold State.afterBufWord; split <;> rfl
@[simp] theorem State.afterBufWord_trace (s : State) (i : Nat) : (s.afterBufWord i).trace = s.trace := by
  unfold State.afterBufWord; split <;> rfl
@[simp] theorem State.afterBufWord_params (s : State) (i : Nat) : (s.afterBufWord i).params = s.params := by
  unfold State.afterBufWord; split <;> rfl
@[simp] theorem State.afterBufWord_encIn (s : State) (i : Nat) : (s.afterBufWord i).encIn = s.encIn := by
  unfold State.afterBufWord; split <;> rfl
@[simp] theorem State.afterBufWord_chipIn (s : State) (i : Nat) : (s.afterBufWord i).chipIn = s.chipIn := by
  unfold State.afterBufWord; split <;> rfl
@[simp] theorem State.afterBufWord_chips (s : State) (i : Nat) : (s.afterBufWord i).chips = s.chips := by
  unfold State.afterBufWord; split <;> rfl
@[simp] theorem State.afterBufWord_draws (s : State) (i : Nat) :
    (s.afterBufWord i).draws = if (Memory.read s.buf i).isSome then s.draws else s.draws + 1 := by
  unfold State.afterBufWord; split <;> simp_all
@[simp] theorem State.afterBufWord_agenda (s : State) (i : Nat) : (s.afterBufWord i).agenda = s.agenda := by
  unfold State.afterBufWord; split <;> rfl
@[simp] theorem State.afterBufWord_turns (s : State) (i : Nat) : (s.afterBufWord i).turns = s.turns := by
  unfold State.afterBufWord; split <;> rfl
@[simp] theorem State.afterBufWord_hostProg (s : State) (i : Nat) : (s.afterBufWord i).hostProg = s.hostProg := by
  unfold State.afterBufWord; split <;> rfl
@[simp] theorem State.afterBufWord_hostPc (s : State) (i : Nat) : (s.afterBufWord i).hostPc = s.hostPc := by
  unfold State.afterBufWord; split <;> rfl
@[simp] theorem State.afterBufWord_hostVars (s : State) (i : Nat) : (s.afterBufWord i).hostVars = s.hostVars := by
  unfold State.afterBufWord; split <;> rfl
@[simp] theorem State.afterBufWord_rdata (s : State) (i : Nat) : (s.afterBufWord i).rdata = s.rdata := by
  unfold State.afterBufWord; split <;> rfl

/-! ### State.afterCapture -/

@[simp] theorem State.afterCapture_tstate (s : State) (k : Word) : (s.afterCapture k).tstate = s.tstate := by
  unfold State.afterCapture; split <;> rfl
@[simp] theorem State.afterCapture_regmode (s : State) (k : Word) : (s.afterCapture k).regmode = s.regmode := by
  unfold State.afterCapture; split <;> rfl
@[simp] theorem State.afterCapture_mirrorEn (s : State) (k : Word) : (s.afterCapture k).mirrorEn = s.mirrorEn := by
  unfold State.afterCapture; split <;> rfl
@[simp] theorem State.afterCapture_lastResult (s : State) (k : Word) :
    (s.afterCapture k).lastResult = s.lastResult := by
  unfold State.afterCapture; split <;> rfl
@[simp] theorem State.afterCapture_fault (s : State) (k : Word) : (s.afterCapture k).fault = s.fault := by
  unfold State.afterCapture; split <;> rfl
@[simp] theorem State.afterCapture_faultCode (s : State) (k : Word) : (s.afterCapture k).faultCode = s.faultCode := by
  unfold State.afterCapture; split <;> rfl
@[simp] theorem State.afterCapture_buf (s : State) (k : Word) : (s.afterCapture k).buf = s.buf := by
  unfold State.afterCapture; split <;> rfl
@[simp] theorem State.afterCapture_arr (s : State) (k : Word) : (s.afterCapture k).arr = s.arr := by
  unfold State.afterCapture; split <;> rfl
@[simp] theorem State.afterCapture_dmaIdx (s : State) (k : Word) : (s.afterCapture k).dmaIdx = s.dmaIdx := by
  unfold State.afterCapture; split <;> rfl
@[simp] theorem State.afterCapture_txRun (s : State) (k : Word) : (s.afterCapture k).txRun = s.txRun := by
  unfold State.afterCapture; split <;> rfl
@[simp] theorem State.afterCapture_out (s : State) (k : Word) : (s.afterCapture k).out = s.out := by
  unfold State.afterCapture; split <;> rfl
@[simp] theorem State.afterCapture_feedIe (s : State) (k : Word) : (s.afterCapture k).feedIe = s.feedIe := by
  unfold State.afterCapture; split <;> rfl
@[simp] theorem State.afterCapture_htPend (s : State) (k : Word) : (s.afterCapture k).htPend = s.htPend := by
  unfold State.afterCapture; split <;> rfl
@[simp] theorem State.afterCapture_tcPend (s : State) (k : Word) : (s.afterCapture k).tcPend = s.tcPend := by
  unfold State.afterCapture; split <;> rfl
@[simp] theorem State.afterCapture_fillActive (s : State) (k : Word) :
    (s.afterCapture k).fillActive = s.fillActive := by
  unfold State.afterCapture; split <;> rfl
@[simp] theorem State.afterCapture_fillKind (s : State) (k : Word) : (s.afterCapture k).fillKind = s.fillKind := by
  unfold State.afterCapture; split <;> rfl
@[simp] theorem State.afterCapture_fillPos (s : State) (k : Word) : (s.afterCapture k).fillPos = s.fillPos := by
  unfold State.afterCapture; split <;> rfl
@[simp] theorem State.afterCapture_fillEnd (s : State) (k : Word) : (s.afterCapture k).fillEnd = s.fillEnd := by
  unfold State.afterCapture; split <;> rfl
@[simp] theorem State.afterCapture_fillHalf (s : State) (k : Word) : (s.afterCapture k).fillHalf = s.fillHalf := by
  unfold State.afterCapture; split <;> rfl
@[simp] theorem State.afterCapture_fillZero (s : State) (k : Word) : (s.afterCapture k).fillZero = s.fillZero := by
  unfold State.afterCapture; split <;> rfl
@[simp] theorem State.afterCapture_mwState (s : State) (k : Word) : (s.afterCapture k).mwState = s.mwState := by
  unfold State.afterCapture; split <;> rfl
@[simp] theorem State.afterCapture_mwAcc (s : State) (k : Word) : (s.afterCapture k).mwAcc = s.mwAcc := by
  unfold State.afterCapture; split <;> rfl
@[simp] theorem State.afterCapture_mwPol (s : State) (k : Word) : (s.afterCapture k).mwPol = s.mwPol := by
  unfold State.afterCapture; split <;> rfl
@[simp] theorem State.afterCapture_dutyHigh (s : State) (k : Word) : (s.afterCapture k).dutyHigh = s.dutyHigh := by
  unfold State.afterCapture; split <;> rfl
@[simp] theorem State.afterCapture_dutyLow (s : State) (k : Word) : (s.afterCapture k).dutyLow = s.dutyLow := by
  unfold State.afterCapture; split <;> rfl
@[simp] theorem State.afterCapture_mirrorActive (s : State) (k : Word) :
    (s.afterCapture k).mirrorActive = s.mirrorActive := by
  unfold State.afterCapture; split <;> rfl
@[simp] theorem State.afterCapture_mirror (s : State) (k : Word) : (s.afterCapture k).mirror = s.mirror := by
  unfold State.afterCapture; split <;> rfl
@[simp] theorem State.afterCapture_cnt (s : State) (k : Word) : (s.afterCapture k).cnt = s.cnt := by
  unfold State.afterCapture; split <;> rfl
@[simp] theorem State.afterCapture_delta (s : State) (k : Word) : (s.afterCapture k).delta = s.delta := by
  unfold State.afterCapture; split <;> rfl
@[simp] theorem State.afterCapture_ccr1 (s : State) (k : Word) : (s.afterCapture k).ccr1 = s.ccr1 := by
  unfold State.afterCapture; split <;> rfl
@[simp] theorem State.afterCapture_ccr2 (s : State) (k : Word) : (s.afterCapture k).ccr2 = s.ccr2 := by
  unfold State.afterCapture; split <;> rfl
@[simp] theorem State.afterCapture_encPos (s : State) (k : Word) : (s.afterCapture k).encPos = s.encPos := by
  unfold State.afterCapture; split <;> rfl
@[simp] theorem State.afterCapture_trace (s : State) (k : Word) : (s.afterCapture k).trace = s.trace := by
  unfold State.afterCapture; split <;> rfl
@[simp] theorem State.afterCapture_params (s : State) (k : Word) : (s.afterCapture k).params = s.params := by
  unfold State.afterCapture; split <;> rfl
@[simp] theorem State.afterCapture_encIn (s : State) (k : Word) : (s.afterCapture k).encIn = s.encIn := by
  unfold State.afterCapture; split <;> rfl
@[simp] theorem State.afterCapture_chipIn (s : State) (k : Word) : (s.afterCapture k).chipIn = s.chipIn := by
  unfold State.afterCapture; split <;> rfl
@[simp] theorem State.afterCapture_chips (s : State) (k : Word) : (s.afterCapture k).chips = s.chips := by
  unfold State.afterCapture; split <;> rfl
@[simp] theorem State.afterCapture_draws (s : State) (k : Word) :
    (s.afterCapture k).draws = if s.captureFits k then s.draws else s.draws + 1 := by
  unfold State.afterCapture; split <;> simp_all
@[simp] theorem State.afterCapture_agenda (s : State) (k : Word) : (s.afterCapture k).agenda = s.agenda := by
  unfold State.afterCapture; split <;> rfl
@[simp] theorem State.afterCapture_turns (s : State) (k : Word) : (s.afterCapture k).turns = s.turns := by
  unfold State.afterCapture; split <;> rfl
@[simp] theorem State.afterCapture_hostProg (s : State) (k : Word) : (s.afterCapture k).hostProg = s.hostProg := by
  unfold State.afterCapture; split <;> rfl
@[simp] theorem State.afterCapture_hostPc (s : State) (k : Word) : (s.afterCapture k).hostPc = s.hostPc := by
  unfold State.afterCapture; split <;> rfl
@[simp] theorem State.afterCapture_hostVars (s : State) (k : Word) : (s.afterCapture k).hostVars = s.hostVars := by
  unfold State.afterCapture; split <;> rfl
@[simp] theorem State.afterCapture_rdata (s : State) (k : Word) : (s.afterCapture k).rdata = s.rdata := by
  unfold State.afterCapture; split <;> rfl

/-! ### State.afterChip -/

@[simp] theorem State.afterChip_tstate (s : State) (q : ChipReq) : (s.afterChip q).tstate = s.tstate := rfl
@[simp] theorem State.afterChip_regmode (s : State) (q : ChipReq) : (s.afterChip q).regmode = s.regmode := rfl
@[simp] theorem State.afterChip_mirrorEn (s : State) (q : ChipReq) : (s.afterChip q).mirrorEn = s.mirrorEn := rfl
@[simp] theorem State.afterChip_lastResult (s : State) (q : ChipReq) :
    (s.afterChip q).lastResult = s.lastResult := rfl
@[simp] theorem State.afterChip_fault (s : State) (q : ChipReq) : (s.afterChip q).fault = s.fault := rfl
@[simp] theorem State.afterChip_faultCode (s : State) (q : ChipReq) : (s.afterChip q).faultCode = s.faultCode := rfl
@[simp] theorem State.afterChip_buf (s : State) (q : ChipReq) : (s.afterChip q).buf = s.buf := rfl
@[simp] theorem State.afterChip_arr (s : State) (q : ChipReq) : (s.afterChip q).arr = s.arr := rfl
@[simp] theorem State.afterChip_dmaIdx (s : State) (q : ChipReq) : (s.afterChip q).dmaIdx = s.dmaIdx := rfl
@[simp] theorem State.afterChip_txRun (s : State) (q : ChipReq) : (s.afterChip q).txRun = s.txRun := rfl
@[simp] theorem State.afterChip_out (s : State) (q : ChipReq) : (s.afterChip q).out = s.out := rfl
@[simp] theorem State.afterChip_feedIe (s : State) (q : ChipReq) : (s.afterChip q).feedIe = s.feedIe := rfl
@[simp] theorem State.afterChip_htPend (s : State) (q : ChipReq) : (s.afterChip q).htPend = s.htPend := rfl
@[simp] theorem State.afterChip_tcPend (s : State) (q : ChipReq) : (s.afterChip q).tcPend = s.tcPend := rfl
@[simp] theorem State.afterChip_fillActive (s : State) (q : ChipReq) :
    (s.afterChip q).fillActive = s.fillActive := rfl
@[simp] theorem State.afterChip_fillKind (s : State) (q : ChipReq) : (s.afterChip q).fillKind = s.fillKind := rfl
@[simp] theorem State.afterChip_fillPos (s : State) (q : ChipReq) : (s.afterChip q).fillPos = s.fillPos := rfl
@[simp] theorem State.afterChip_fillEnd (s : State) (q : ChipReq) : (s.afterChip q).fillEnd = s.fillEnd := rfl
@[simp] theorem State.afterChip_fillHalf (s : State) (q : ChipReq) : (s.afterChip q).fillHalf = s.fillHalf := rfl
@[simp] theorem State.afterChip_fillZero (s : State) (q : ChipReq) : (s.afterChip q).fillZero = s.fillZero := rfl
@[simp] theorem State.afterChip_mwState (s : State) (q : ChipReq) : (s.afterChip q).mwState = s.mwState := rfl
@[simp] theorem State.afterChip_mwAcc (s : State) (q : ChipReq) : (s.afterChip q).mwAcc = s.mwAcc := rfl
@[simp] theorem State.afterChip_mwPol (s : State) (q : ChipReq) : (s.afterChip q).mwPol = s.mwPol := rfl
@[simp] theorem State.afterChip_dutyHigh (s : State) (q : ChipReq) : (s.afterChip q).dutyHigh = s.dutyHigh := rfl
@[simp] theorem State.afterChip_dutyLow (s : State) (q : ChipReq) : (s.afterChip q).dutyLow = s.dutyLow := rfl
@[simp] theorem State.afterChip_mirrorActive (s : State) (q : ChipReq) :
    (s.afterChip q).mirrorActive = s.mirrorActive := rfl
@[simp] theorem State.afterChip_mirror (s : State) (q : ChipReq) : (s.afterChip q).mirror = s.mirror := rfl
@[simp] theorem State.afterChip_cnt (s : State) (q : ChipReq) : (s.afterChip q).cnt = s.cnt := rfl
@[simp] theorem State.afterChip_delta (s : State) (q : ChipReq) : (s.afterChip q).delta = s.delta := rfl
@[simp] theorem State.afterChip_ccr1 (s : State) (q : ChipReq) : (s.afterChip q).ccr1 = s.ccr1 := rfl
@[simp] theorem State.afterChip_ccr2 (s : State) (q : ChipReq) : (s.afterChip q).ccr2 = s.ccr2 := rfl
@[simp] theorem State.afterChip_encPos (s : State) (q : ChipReq) : (s.afterChip q).encPos = s.encPos := rfl
@[simp] theorem State.afterChip_trace (s : State) (q : ChipReq) :
    (s.afterChip q).trace = s.trace ++ [.chip q (chipAnswer q s.chipGood)] := rfl
@[simp] theorem State.afterChip_params (s : State) (q : ChipReq) : (s.afterChip q).params = s.params := rfl
@[simp] theorem State.afterChip_encIn (s : State) (q : ChipReq) : (s.afterChip q).encIn = s.encIn := rfl
@[simp] theorem State.afterChip_chipIn (s : State) (q : ChipReq) : (s.afterChip q).chipIn = s.chipIn.tail := rfl
@[simp] theorem State.afterChip_chips (s : State) (q : ChipReq) : (s.afterChip q).chips = s.chips + 1 := rfl
@[simp] theorem State.afterChip_draws (s : State) (q : ChipReq) : (s.afterChip q).draws = s.draws := rfl
@[simp] theorem State.afterChip_agenda (s : State) (q : ChipReq) : (s.afterChip q).agenda = s.agenda := rfl
@[simp] theorem State.afterChip_turns (s : State) (q : ChipReq) : (s.afterChip q).turns = s.turns := rfl
@[simp] theorem State.afterChip_hostProg (s : State) (q : ChipReq) : (s.afterChip q).hostProg = s.hostProg := rfl
@[simp] theorem State.afterChip_hostPc (s : State) (q : ChipReq) : (s.afterChip q).hostPc = s.hostPc := rfl
@[simp] theorem State.afterChip_hostVars (s : State) (q : ChipReq) : (s.afterChip q).hostVars = s.hostVars := rfl
@[simp] theorem State.afterChip_rdata (s : State) (q : ChipReq) : (s.afterChip q).rdata = s.rdata := rfl

/-! ### State.pulled -/

@[simp] theorem State.pulled_tstate (s : State) : (s.pulled).tstate = s.tstate := rfl
@[simp] theorem State.pulled_regmode (s : State) : (s.pulled).regmode = s.regmode := rfl
@[simp] theorem State.pulled_mirrorEn (s : State) : (s.pulled).mirrorEn = s.mirrorEn := rfl
@[simp] theorem State.pulled_lastResult (s : State) : (s.pulled).lastResult = s.lastResult := rfl
@[simp] theorem State.pulled_fault (s : State) : (s.pulled).fault = s.fault := rfl
@[simp] theorem State.pulled_faultCode (s : State) : (s.pulled).faultCode = s.faultCode := rfl
@[simp] theorem State.pulled_buf (s : State) : (s.pulled).buf = s.buf := rfl
@[simp] theorem State.pulled_arr (s : State) : (s.pulled).arr = s.arr := rfl
@[simp] theorem State.pulled_dmaIdx (s : State) : (s.pulled).dmaIdx = s.dmaIdx := rfl
@[simp] theorem State.pulled_txRun (s : State) : (s.pulled).txRun = s.txRun := rfl
@[simp] theorem State.pulled_out (s : State) : (s.pulled).out = s.out := rfl
@[simp] theorem State.pulled_feedIe (s : State) : (s.pulled).feedIe = s.feedIe := rfl
@[simp] theorem State.pulled_htPend (s : State) : (s.pulled).htPend = s.htPend := rfl
@[simp] theorem State.pulled_tcPend (s : State) : (s.pulled).tcPend = s.tcPend := rfl
@[simp] theorem State.pulled_fillActive (s : State) : (s.pulled).fillActive = s.fillActive := rfl
@[simp] theorem State.pulled_fillKind (s : State) : (s.pulled).fillKind = s.fillKind := rfl
@[simp] theorem State.pulled_fillPos (s : State) : (s.pulled).fillPos = s.fillPos := rfl
@[simp] theorem State.pulled_fillEnd (s : State) : (s.pulled).fillEnd = s.fillEnd := rfl
@[simp] theorem State.pulled_fillHalf (s : State) : (s.pulled).fillHalf = s.fillHalf := rfl
@[simp] theorem State.pulled_fillZero (s : State) : (s.pulled).fillZero = s.fillZero := rfl
@[simp] theorem State.pulled_mwState (s : State) : (s.pulled).mwState = s.mwState := rfl
@[simp] theorem State.pulled_mwAcc (s : State) : (s.pulled).mwAcc = s.mwAcc := rfl
@[simp] theorem State.pulled_mwPol (s : State) : (s.pulled).mwPol = s.mwPol := rfl
@[simp] theorem State.pulled_dutyHigh (s : State) : (s.pulled).dutyHigh = s.dutyHigh := rfl
@[simp] theorem State.pulled_dutyLow (s : State) : (s.pulled).dutyLow = s.dutyLow := rfl
@[simp] theorem State.pulled_mirrorActive (s : State) : (s.pulled).mirrorActive = s.mirrorActive := rfl
@[simp] theorem State.pulled_mirror (s : State) : (s.pulled).mirror = s.mirror := rfl
@[simp] theorem State.pulled_cnt (s : State) : (s.pulled).cnt = s.cnt := rfl
@[simp] theorem State.pulled_delta (s : State) : (s.pulled).delta = s.delta := rfl
@[simp] theorem State.pulled_ccr1 (s : State) : (s.pulled).ccr1 = s.ccr1 := rfl
@[simp] theorem State.pulled_ccr2 (s : State) : (s.pulled).ccr2 = s.ccr2 := rfl
@[simp] theorem State.pulled_encPos (s : State) : (s.pulled).encPos = s.encPos + 1 := rfl
@[simp] theorem State.pulled_trace (s : State) : (s.pulled).trace = s.trace := rfl
@[simp] theorem State.pulled_params (s : State) : (s.pulled).params = s.params := rfl
@[simp] theorem State.pulled_encIn (s : State) : (s.pulled).encIn = s.encIn.tail := rfl
@[simp] theorem State.pulled_chipIn (s : State) : (s.pulled).chipIn = s.chipIn := rfl
@[simp] theorem State.pulled_chips (s : State) : (s.pulled).chips = s.chips := rfl
@[simp] theorem State.pulled_draws (s : State) : (s.pulled).draws = s.draws := rfl
@[simp] theorem State.pulled_agenda (s : State) : (s.pulled).agenda = s.agenda := rfl
@[simp] theorem State.pulled_turns (s : State) : (s.pulled).turns = s.turns := rfl
@[simp] theorem State.pulled_hostProg (s : State) : (s.pulled).hostProg = s.hostProg := rfl
@[simp] theorem State.pulled_hostPc (s : State) : (s.pulled).hostPc = s.hostPc := rfl
@[simp] theorem State.pulled_hostVars (s : State) : (s.pulled).hostVars = s.hostVars := rfl
@[simp] theorem State.pulled_rdata (s : State) : (s.pulled).rdata = s.rdata := rfl

/-! ### State.driveMirror -/

@[simp] theorem State.driveMirror_tstate (s : State) (l : Level) : (s.driveMirror l).tstate = s.tstate := by
  unfold State.driveMirror; split <;> rfl
@[simp] theorem State.driveMirror_regmode (s : State) (l : Level) : (s.driveMirror l).regmode = s.regmode := by
  unfold State.driveMirror; split <;> rfl
@[simp] theorem State.driveMirror_mirrorEn (s : State) (l : Level) : (s.driveMirror l).mirrorEn = s.mirrorEn := by
  unfold State.driveMirror; split <;> rfl
@[simp] theorem State.driveMirror_lastResult (s : State) (l : Level) :
    (s.driveMirror l).lastResult = s.lastResult := by
  unfold State.driveMirror; split <;> rfl
@[simp] theorem State.driveMirror_fault (s : State) (l : Level) : (s.driveMirror l).fault = s.fault := by
  unfold State.driveMirror; split <;> rfl
@[simp] theorem State.driveMirror_faultCode (s : State) (l : Level) : (s.driveMirror l).faultCode = s.faultCode := by
  unfold State.driveMirror; split <;> rfl
@[simp] theorem State.driveMirror_buf (s : State) (l : Level) : (s.driveMirror l).buf = s.buf := by
  unfold State.driveMirror; split <;> rfl
@[simp] theorem State.driveMirror_arr (s : State) (l : Level) : (s.driveMirror l).arr = s.arr := by
  unfold State.driveMirror; split <;> rfl
@[simp] theorem State.driveMirror_dmaIdx (s : State) (l : Level) : (s.driveMirror l).dmaIdx = s.dmaIdx := by
  unfold State.driveMirror; split <;> rfl
@[simp] theorem State.driveMirror_txRun (s : State) (l : Level) : (s.driveMirror l).txRun = s.txRun := by
  unfold State.driveMirror; split <;> rfl
@[simp] theorem State.driveMirror_out (s : State) (l : Level) : (s.driveMirror l).out = s.out := by
  unfold State.driveMirror; split <;> rfl
@[simp] theorem State.driveMirror_feedIe (s : State) (l : Level) : (s.driveMirror l).feedIe = s.feedIe := by
  unfold State.driveMirror; split <;> rfl
@[simp] theorem State.driveMirror_htPend (s : State) (l : Level) : (s.driveMirror l).htPend = s.htPend := by
  unfold State.driveMirror; split <;> rfl
@[simp] theorem State.driveMirror_tcPend (s : State) (l : Level) : (s.driveMirror l).tcPend = s.tcPend := by
  unfold State.driveMirror; split <;> rfl
@[simp] theorem State.driveMirror_fillActive (s : State) (l : Level) :
    (s.driveMirror l).fillActive = s.fillActive := by
  unfold State.driveMirror; split <;> rfl
@[simp] theorem State.driveMirror_fillKind (s : State) (l : Level) : (s.driveMirror l).fillKind = s.fillKind := by
  unfold State.driveMirror; split <;> rfl
@[simp] theorem State.driveMirror_fillPos (s : State) (l : Level) : (s.driveMirror l).fillPos = s.fillPos := by
  unfold State.driveMirror; split <;> rfl
@[simp] theorem State.driveMirror_fillEnd (s : State) (l : Level) : (s.driveMirror l).fillEnd = s.fillEnd := by
  unfold State.driveMirror; split <;> rfl
@[simp] theorem State.driveMirror_fillHalf (s : State) (l : Level) : (s.driveMirror l).fillHalf = s.fillHalf := by
  unfold State.driveMirror; split <;> rfl
@[simp] theorem State.driveMirror_fillZero (s : State) (l : Level) : (s.driveMirror l).fillZero = s.fillZero := by
  unfold State.driveMirror; split <;> rfl
@[simp] theorem State.driveMirror_mwState (s : State) (l : Level) : (s.driveMirror l).mwState = s.mwState := by
  unfold State.driveMirror; split <;> rfl
@[simp] theorem State.driveMirror_mwAcc (s : State) (l : Level) : (s.driveMirror l).mwAcc = s.mwAcc := by
  unfold State.driveMirror; split <;> rfl
@[simp] theorem State.driveMirror_mwPol (s : State) (l : Level) : (s.driveMirror l).mwPol = s.mwPol := by
  unfold State.driveMirror; split <;> rfl
@[simp] theorem State.driveMirror_dutyHigh (s : State) (l : Level) : (s.driveMirror l).dutyHigh = s.dutyHigh := by
  unfold State.driveMirror; split <;> rfl
@[simp] theorem State.driveMirror_dutyLow (s : State) (l : Level) : (s.driveMirror l).dutyLow = s.dutyLow := by
  unfold State.driveMirror; split <;> rfl
@[simp] theorem State.driveMirror_mirrorActive (s : State) (l : Level) :
    (s.driveMirror l).mirrorActive = s.mirrorActive := by
  unfold State.driveMirror; split <;> rfl
@[simp] theorem State.driveMirror_mirror (s : State) (l : Level) :
    (s.driveMirror l).mirror = if s.mirrorActive then l else s.mirror := by
  unfold State.driveMirror; split <;> simp_all
@[simp] theorem State.driveMirror_cnt (s : State) (l : Level) : (s.driveMirror l).cnt = s.cnt := by
  unfold State.driveMirror; split <;> rfl
@[simp] theorem State.driveMirror_delta (s : State) (l : Level) : (s.driveMirror l).delta = s.delta := by
  unfold State.driveMirror; split <;> rfl
@[simp] theorem State.driveMirror_ccr1 (s : State) (l : Level) : (s.driveMirror l).ccr1 = s.ccr1 := by
  unfold State.driveMirror; split <;> rfl
@[simp] theorem State.driveMirror_ccr2 (s : State) (l : Level) : (s.driveMirror l).ccr2 = s.ccr2 := by
  unfold State.driveMirror; split <;> rfl
@[simp] theorem State.driveMirror_encPos (s : State) (l : Level) : (s.driveMirror l).encPos = s.encPos := by
  unfold State.driveMirror; split <;> rfl
@[simp] theorem State.driveMirror_trace (s : State) (l : Level) :
    (s.driveMirror l).trace = if s.mirrorActive then s.trace ++ [.mirror l] else s.trace := by
  unfold State.driveMirror; split <;> simp_all
@[simp] theorem State.driveMirror_params (s : State) (l : Level) : (s.driveMirror l).params = s.params := by
  unfold State.driveMirror; split <;> rfl
@[simp] theorem State.driveMirror_encIn (s : State) (l : Level) : (s.driveMirror l).encIn = s.encIn := by
  unfold State.driveMirror; split <;> rfl
@[simp] theorem State.driveMirror_chipIn (s : State) (l : Level) : (s.driveMirror l).chipIn = s.chipIn := by
  unfold State.driveMirror; split <;> rfl
@[simp] theorem State.driveMirror_chips (s : State) (l : Level) : (s.driveMirror l).chips = s.chips := by
  unfold State.driveMirror; split <;> rfl
@[simp] theorem State.driveMirror_draws (s : State) (l : Level) : (s.driveMirror l).draws = s.draws := by
  unfold State.driveMirror; split <;> rfl
@[simp] theorem State.driveMirror_agenda (s : State) (l : Level) : (s.driveMirror l).agenda = s.agenda := by
  unfold State.driveMirror; split <;> rfl
@[simp] theorem State.driveMirror_turns (s : State) (l : Level) : (s.driveMirror l).turns = s.turns := by
  unfold State.driveMirror; split <;> rfl
@[simp] theorem State.driveMirror_hostProg (s : State) (l : Level) : (s.driveMirror l).hostProg = s.hostProg := by
  unfold State.driveMirror; split <;> rfl
@[simp] theorem State.driveMirror_hostPc (s : State) (l : Level) : (s.driveMirror l).hostPc = s.hostPc := by
  unfold State.driveMirror; split <;> rfl
@[simp] theorem State.driveMirror_hostVars (s : State) (l : Level) : (s.driveMirror l).hostVars = s.hostVars := by
  unfold State.driveMirror; split <;> rfl
@[simp] theorem State.driveMirror_rdata (s : State) (l : Level) : (s.driveMirror l).rdata = s.rdata := by
  unfold State.driveMirror; split <;> rfl

/-! ### State.setGen -/

@[simp] theorem State.setGen_tstate (s : State) (g : Gen) : (s.setGen g).tstate = s.tstate := rfl
@[simp] theorem State.setGen_regmode (s : State) (g : Gen) : (s.setGen g).regmode = s.regmode := rfl
@[simp] theorem State.setGen_mirrorEn (s : State) (g : Gen) : (s.setGen g).mirrorEn = s.mirrorEn := rfl
@[simp] theorem State.setGen_lastResult (s : State) (g : Gen) : (s.setGen g).lastResult = s.lastResult := rfl
@[simp] theorem State.setGen_fault (s : State) (g : Gen) : (s.setGen g).fault = s.fault := rfl
@[simp] theorem State.setGen_faultCode (s : State) (g : Gen) : (s.setGen g).faultCode = s.faultCode := rfl
@[simp] theorem State.setGen_buf (s : State) (g : Gen) : (s.setGen g).buf = s.buf := rfl
@[simp] theorem State.setGen_arr (s : State) (g : Gen) : (s.setGen g).arr = s.arr := rfl
@[simp] theorem State.setGen_dmaIdx (s : State) (g : Gen) : (s.setGen g).dmaIdx = s.dmaIdx := rfl
@[simp] theorem State.setGen_txRun (s : State) (g : Gen) : (s.setGen g).txRun = s.txRun := rfl
@[simp] theorem State.setGen_out (s : State) (g : Gen) : (s.setGen g).out = s.out := rfl
@[simp] theorem State.setGen_feedIe (s : State) (g : Gen) : (s.setGen g).feedIe = s.feedIe := rfl
@[simp] theorem State.setGen_htPend (s : State) (g : Gen) : (s.setGen g).htPend = s.htPend := rfl
@[simp] theorem State.setGen_tcPend (s : State) (g : Gen) : (s.setGen g).tcPend = s.tcPend := rfl
@[simp] theorem State.setGen_fillActive (s : State) (g : Gen) : (s.setGen g).fillActive = s.fillActive := rfl
@[simp] theorem State.setGen_fillKind (s : State) (g : Gen) : (s.setGen g).fillKind = s.fillKind := rfl
@[simp] theorem State.setGen_fillPos (s : State) (g : Gen) : (s.setGen g).fillPos = s.fillPos := rfl
@[simp] theorem State.setGen_fillEnd (s : State) (g : Gen) : (s.setGen g).fillEnd = s.fillEnd := rfl
@[simp] theorem State.setGen_fillHalf (s : State) (g : Gen) : (s.setGen g).fillHalf = s.fillHalf := rfl
@[simp] theorem State.setGen_fillZero (s : State) (g : Gen) : (s.setGen g).fillZero = s.fillZero := rfl
@[simp] theorem State.setGen_mwState (s : State) (g : Gen) : (s.setGen g).mwState = g.state := rfl
@[simp] theorem State.setGen_mwAcc (s : State) (g : Gen) : (s.setGen g).mwAcc = g.acc := rfl
@[simp] theorem State.setGen_mwPol (s : State) (g : Gen) : (s.setGen g).mwPol = g.pol := rfl
@[simp] theorem State.setGen_dutyHigh (s : State) (g : Gen) : (s.setGen g).dutyHigh = s.dutyHigh := rfl
@[simp] theorem State.setGen_dutyLow (s : State) (g : Gen) : (s.setGen g).dutyLow = s.dutyLow := rfl
@[simp] theorem State.setGen_mirrorActive (s : State) (g : Gen) : (s.setGen g).mirrorActive = s.mirrorActive := rfl
@[simp] theorem State.setGen_mirror (s : State) (g : Gen) : (s.setGen g).mirror = s.mirror := rfl
@[simp] theorem State.setGen_cnt (s : State) (g : Gen) : (s.setGen g).cnt = s.cnt := rfl
@[simp] theorem State.setGen_delta (s : State) (g : Gen) : (s.setGen g).delta = s.delta := rfl
@[simp] theorem State.setGen_ccr1 (s : State) (g : Gen) : (s.setGen g).ccr1 = s.ccr1 := rfl
@[simp] theorem State.setGen_ccr2 (s : State) (g : Gen) : (s.setGen g).ccr2 = s.ccr2 := rfl
@[simp] theorem State.setGen_encPos (s : State) (g : Gen) : (s.setGen g).encPos = s.encPos := rfl
@[simp] theorem State.setGen_trace (s : State) (g : Gen) : (s.setGen g).trace = s.trace := rfl
@[simp] theorem State.setGen_params (s : State) (g : Gen) : (s.setGen g).params = s.params := rfl
@[simp] theorem State.setGen_encIn (s : State) (g : Gen) : (s.setGen g).encIn = s.encIn := rfl
@[simp] theorem State.setGen_chipIn (s : State) (g : Gen) : (s.setGen g).chipIn = s.chipIn := rfl
@[simp] theorem State.setGen_chips (s : State) (g : Gen) : (s.setGen g).chips = s.chips := rfl
@[simp] theorem State.setGen_draws (s : State) (g : Gen) : (s.setGen g).draws = s.draws := rfl
@[simp] theorem State.setGen_agenda (s : State) (g : Gen) : (s.setGen g).agenda = s.agenda := rfl
@[simp] theorem State.setGen_turns (s : State) (g : Gen) : (s.setGen g).turns = s.turns := rfl
@[simp] theorem State.setGen_hostProg (s : State) (g : Gen) : (s.setGen g).hostProg = s.hostProg := rfl
@[simp] theorem State.setGen_hostPc (s : State) (g : Gen) : (s.setGen g).hostPc = s.hostPc := rfl
@[simp] theorem State.setGen_hostVars (s : State) (g : Gen) : (s.setGen g).hostVars = s.hostVars := rfl
@[simp] theorem State.setGen_rdata (s : State) (g : Gen) : (s.setGen g).rdata = s.rdata := rfl

/-! ### State.mwInit -/

@[simp] theorem State.mwInit_tstate (s : State) : (s.mwInit).tstate = s.tstate := rfl
@[simp] theorem State.mwInit_regmode (s : State) : (s.mwInit).regmode = s.regmode := rfl
@[simp] theorem State.mwInit_mirrorEn (s : State) : (s.mwInit).mirrorEn = s.mirrorEn := rfl
@[simp] theorem State.mwInit_lastResult (s : State) : (s.mwInit).lastResult = s.lastResult := rfl
@[simp] theorem State.mwInit_fault (s : State) : (s.mwInit).fault = s.fault := rfl
@[simp] theorem State.mwInit_faultCode (s : State) : (s.mwInit).faultCode = s.faultCode := rfl
@[simp] theorem State.mwInit_buf (s : State) : (s.mwInit).buf = s.buf := rfl
@[simp] theorem State.mwInit_arr (s : State) : (s.mwInit).arr = s.arr := rfl
@[simp] theorem State.mwInit_dmaIdx (s : State) : (s.mwInit).dmaIdx = s.dmaIdx := rfl
@[simp] theorem State.mwInit_txRun (s : State) : (s.mwInit).txRun = s.txRun := rfl
@[simp] theorem State.mwInit_out (s : State) : (s.mwInit).out = s.out := rfl
@[simp] theorem State.mwInit_feedIe (s : State) : (s.mwInit).feedIe = s.feedIe := rfl
@[simp] theorem State.mwInit_htPend (s : State) : (s.mwInit).htPend = s.htPend := rfl
@[simp] theorem State.mwInit_tcPend (s : State) : (s.mwInit).tcPend = s.tcPend := rfl
@[simp] theorem State.mwInit_fillActive (s : State) : (s.mwInit).fillActive = s.fillActive := rfl
@[simp] theorem State.mwInit_fillKind (s : State) : (s.mwInit).fillKind = s.fillKind := rfl
@[simp] theorem State.mwInit_fillPos (s : State) : (s.mwInit).fillPos = s.fillPos := rfl
@[simp] theorem State.mwInit_fillEnd (s : State) : (s.mwInit).fillEnd = s.fillEnd := rfl
@[simp] theorem State.mwInit_fillHalf (s : State) : (s.mwInit).fillHalf = s.fillHalf := rfl
@[simp] theorem State.mwInit_fillZero (s : State) : (s.mwInit).fillZero = s.fillZero := rfl
@[simp] theorem State.mwInit_mwState (s : State) : (s.mwInit).mwState = .idle := rfl
@[simp] theorem State.mwInit_mwAcc (s : State) : (s.mwInit).mwAcc = 0 := rfl
@[simp] theorem State.mwInit_mwPol (s : State) : (s.mwInit).mwPol = false := rfl
@[simp] theorem State.mwInit_dutyHigh (s : State) : (s.mwInit).dutyHigh = 0 := rfl
@[simp] theorem State.mwInit_dutyLow (s : State) : (s.mwInit).dutyLow = 0 := rfl
@[simp] theorem State.mwInit_mirrorActive (s : State) : (s.mwInit).mirrorActive = s.mirrorActive := rfl
@[simp] theorem State.mwInit_mirror (s : State) : (s.mwInit).mirror = s.mirror := rfl
@[simp] theorem State.mwInit_cnt (s : State) : (s.mwInit).cnt = s.cnt := rfl
@[simp] theorem State.mwInit_delta (s : State) : (s.mwInit).delta = s.delta := rfl
@[simp] theorem State.mwInit_ccr1 (s : State) : (s.mwInit).ccr1 = s.ccr1 := rfl
@[simp] theorem State.mwInit_ccr2 (s : State) : (s.mwInit).ccr2 = s.ccr2 := rfl
@[simp] theorem State.mwInit_encPos (s : State) : (s.mwInit).encPos = s.encPos := rfl
@[simp] theorem State.mwInit_trace (s : State) : (s.mwInit).trace = s.trace := rfl
@[simp] theorem State.mwInit_params (s : State) : (s.mwInit).params = s.params := rfl
@[simp] theorem State.mwInit_encIn (s : State) : (s.mwInit).encIn = s.encIn := rfl
@[simp] theorem State.mwInit_chipIn (s : State) : (s.mwInit).chipIn = s.chipIn := rfl
@[simp] theorem State.mwInit_chips (s : State) : (s.mwInit).chips = s.chips := rfl
@[simp] theorem State.mwInit_draws (s : State) : (s.mwInit).draws = s.draws := rfl
@[simp] theorem State.mwInit_agenda (s : State) : (s.mwInit).agenda = s.agenda := rfl
@[simp] theorem State.mwInit_turns (s : State) : (s.mwInit).turns = s.turns := rfl
@[simp] theorem State.mwInit_hostProg (s : State) : (s.mwInit).hostProg = s.hostProg := rfl
@[simp] theorem State.mwInit_hostPc (s : State) : (s.mwInit).hostPc = s.hostPc := rfl
@[simp] theorem State.mwInit_hostVars (s : State) : (s.mwInit).hostVars = s.hostVars := rfl
@[simp] theorem State.mwInit_rdata (s : State) : (s.mwInit).rdata = s.rdata := rfl

/-! ### State.answer -/

@[simp] theorem State.answer_tstate (s : State) (v : Word) : (s.answer v).tstate = s.tstate := rfl
@[simp] theorem State.answer_regmode (s : State) (v : Word) : (s.answer v).regmode = s.regmode := rfl
@[simp] theorem State.answer_mirrorEn (s : State) (v : Word) : (s.answer v).mirrorEn = s.mirrorEn := rfl
@[simp] theorem State.answer_lastResult (s : State) (v : Word) : (s.answer v).lastResult = s.lastResult := rfl
@[simp] theorem State.answer_fault (s : State) (v : Word) : (s.answer v).fault = s.fault := rfl
@[simp] theorem State.answer_faultCode (s : State) (v : Word) : (s.answer v).faultCode = s.faultCode := rfl
@[simp] theorem State.answer_buf (s : State) (v : Word) : (s.answer v).buf = s.buf := rfl
@[simp] theorem State.answer_arr (s : State) (v : Word) : (s.answer v).arr = s.arr := rfl
@[simp] theorem State.answer_dmaIdx (s : State) (v : Word) : (s.answer v).dmaIdx = s.dmaIdx := rfl
@[simp] theorem State.answer_txRun (s : State) (v : Word) : (s.answer v).txRun = s.txRun := rfl
@[simp] theorem State.answer_out (s : State) (v : Word) : (s.answer v).out = s.out := rfl
@[simp] theorem State.answer_feedIe (s : State) (v : Word) : (s.answer v).feedIe = s.feedIe := rfl
@[simp] theorem State.answer_htPend (s : State) (v : Word) : (s.answer v).htPend = s.htPend := rfl
@[simp] theorem State.answer_tcPend (s : State) (v : Word) : (s.answer v).tcPend = s.tcPend := rfl
@[simp] theorem State.answer_fillActive (s : State) (v : Word) : (s.answer v).fillActive = s.fillActive := rfl
@[simp] theorem State.answer_fillKind (s : State) (v : Word) : (s.answer v).fillKind = s.fillKind := rfl
@[simp] theorem State.answer_fillPos (s : State) (v : Word) : (s.answer v).fillPos = s.fillPos := rfl
@[simp] theorem State.answer_fillEnd (s : State) (v : Word) : (s.answer v).fillEnd = s.fillEnd := rfl
@[simp] theorem State.answer_fillHalf (s : State) (v : Word) : (s.answer v).fillHalf = s.fillHalf := rfl
@[simp] theorem State.answer_fillZero (s : State) (v : Word) : (s.answer v).fillZero = s.fillZero := rfl
@[simp] theorem State.answer_mwState (s : State) (v : Word) : (s.answer v).mwState = s.mwState := rfl
@[simp] theorem State.answer_mwAcc (s : State) (v : Word) : (s.answer v).mwAcc = s.mwAcc := rfl
@[simp] theorem State.answer_mwPol (s : State) (v : Word) : (s.answer v).mwPol = s.mwPol := rfl
@[simp] theorem State.answer_dutyHigh (s : State) (v : Word) : (s.answer v).dutyHigh = s.dutyHigh := rfl
@[simp] theorem State.answer_dutyLow (s : State) (v : Word) : (s.answer v).dutyLow = s.dutyLow := rfl
@[simp] theorem State.answer_mirrorActive (s : State) (v : Word) : (s.answer v).mirrorActive = s.mirrorActive := rfl
@[simp] theorem State.answer_mirror (s : State) (v : Word) : (s.answer v).mirror = s.mirror := rfl
@[simp] theorem State.answer_cnt (s : State) (v : Word) : (s.answer v).cnt = s.cnt := rfl
@[simp] theorem State.answer_delta (s : State) (v : Word) : (s.answer v).delta = s.delta := rfl
@[simp] theorem State.answer_ccr1 (s : State) (v : Word) : (s.answer v).ccr1 = s.ccr1 := rfl
@[simp] theorem State.answer_ccr2 (s : State) (v : Word) : (s.answer v).ccr2 = s.ccr2 := rfl
@[simp] theorem State.answer_encPos (s : State) (v : Word) : (s.answer v).encPos = s.encPos := rfl
@[simp] theorem State.answer_trace (s : State) (v : Word) : (s.answer v).trace = s.trace := rfl
@[simp] theorem State.answer_params (s : State) (v : Word) : (s.answer v).params = s.params := rfl
@[simp] theorem State.answer_encIn (s : State) (v : Word) : (s.answer v).encIn = s.encIn := rfl
@[simp] theorem State.answer_chipIn (s : State) (v : Word) : (s.answer v).chipIn = s.chipIn := rfl
@[simp] theorem State.answer_chips (s : State) (v : Word) : (s.answer v).chips = s.chips := rfl
@[simp] theorem State.answer_draws (s : State) (v : Word) : (s.answer v).draws = s.draws := rfl
@[simp] theorem State.answer_agenda (s : State) (v : Word) : (s.answer v).agenda = s.agenda := rfl
@[simp] theorem State.answer_turns (s : State) (v : Word) : (s.answer v).turns = s.turns := rfl
@[simp] theorem State.answer_hostProg (s : State) (v : Word) : (s.answer v).hostProg = s.hostProg := rfl
@[simp] theorem State.answer_hostPc (s : State) (v : Word) : (s.answer v).hostPc = s.hostPc := rfl
@[simp] theorem State.answer_hostVars (s : State) (v : Word) : (s.answer v).hostVars = s.hostVars := rfl
@[simp] theorem State.answer_rdata (s : State) (v : Word) : (s.answer v).rdata = v := rfl

/-! ### State.writeCfg -/

@[simp] theorem State.writeCfg_tstate (s : State) (v : Word) : (s.writeCfg v).tstate = s.tstate := rfl
@[simp] theorem State.writeCfg_regmode (s : State) (v : Word) : (s.writeCfg v).regmode = v.getLsbD 0 := rfl
@[simp] theorem State.writeCfg_mirrorEn (s : State) (v : Word) : (s.writeCfg v).mirrorEn = v.getLsbD 1 := rfl
@[simp] theorem State.writeCfg_lastResult (s : State) (v : Word) : (s.writeCfg v).lastResult = s.lastResult := rfl
@[simp] theorem State.writeCfg_fault (s : State) (v : Word) : (s.writeCfg v).fault = s.fault := rfl
@[simp] theorem State.writeCfg_faultCode (s : State) (v : Word) : (s.writeCfg v).faultCode = s.faultCode := rfl
@[simp] theorem State.writeCfg_buf (s : State) (v : Word) : (s.writeCfg v).buf = s.buf := rfl
@[simp] theorem State.writeCfg_arr (s : State) (v : Word) : (s.writeCfg v).arr = s.arr := rfl
@[simp] theorem State.writeCfg_dmaIdx (s : State) (v : Word) : (s.writeCfg v).dmaIdx = s.dmaIdx := rfl
@[simp] theorem State.writeCfg_txRun (s : State) (v : Word) : (s.writeCfg v).txRun = s.txRun := rfl
@[simp] theorem State.writeCfg_out (s : State) (v : Word) : (s.writeCfg v).out = s.out := rfl
@[simp] theorem State.writeCfg_feedIe (s : State) (v : Word) : (s.writeCfg v).feedIe = s.feedIe := rfl
@[simp] theorem State.writeCfg_htPend (s : State) (v : Word) : (s.writeCfg v).htPend = s.htPend := rfl
@[simp] theorem State.writeCfg_tcPend (s : State) (v : Word) : (s.writeCfg v).tcPend = s.tcPend := rfl
@[simp] theorem State.writeCfg_fillActive (s : State) (v : Word) : (s.writeCfg v).fillActive = s.fillActive := rfl
@[simp] theorem State.writeCfg_fillKind (s : State) (v : Word) : (s.writeCfg v).fillKind = s.fillKind := rfl
@[simp] theorem State.writeCfg_fillPos (s : State) (v : Word) : (s.writeCfg v).fillPos = s.fillPos := rfl
@[simp] theorem State.writeCfg_fillEnd (s : State) (v : Word) : (s.writeCfg v).fillEnd = s.fillEnd := rfl
@[simp] theorem State.writeCfg_fillHalf (s : State) (v : Word) : (s.writeCfg v).fillHalf = s.fillHalf := rfl
@[simp] theorem State.writeCfg_fillZero (s : State) (v : Word) : (s.writeCfg v).fillZero = s.fillZero := rfl
@[simp] theorem State.writeCfg_mwState (s : State) (v : Word) : (s.writeCfg v).mwState = s.mwState := rfl
@[simp] theorem State.writeCfg_mwAcc (s : State) (v : Word) : (s.writeCfg v).mwAcc = s.mwAcc := rfl
@[simp] theorem State.writeCfg_mwPol (s : State) (v : Word) : (s.writeCfg v).mwPol = s.mwPol := rfl
@[simp] theorem State.writeCfg_dutyHigh (s : State) (v : Word) : (s.writeCfg v).dutyHigh = s.dutyHigh := rfl
@[simp] theorem State.writeCfg_dutyLow (s : State) (v : Word) : (s.writeCfg v).dutyLow = s.dutyLow := rfl
@[simp] theorem State.writeCfg_mirrorActive (s : State) (v : Word) :
    (s.writeCfg v).mirrorActive = s.mirrorActive := rfl
@[simp] theorem State.writeCfg_mirror (s : State) (v : Word) : (s.writeCfg v).mirror = s.mirror := rfl
@[simp] theorem State.writeCfg_cnt (s : State) (v : Word) : (s.writeCfg v).cnt = s.cnt := rfl
@[simp] theorem State.writeCfg_delta (s : State) (v : Word) : (s.writeCfg v).delta = s.delta := rfl
@[simp] theorem State.writeCfg_ccr1 (s : State) (v : Word) : (s.writeCfg v).ccr1 = s.ccr1 := rfl
@[simp] theorem State.writeCfg_ccr2 (s : State) (v : Word) : (s.writeCfg v).ccr2 = s.ccr2 := rfl
@[simp] theorem State.writeCfg_encPos (s : State) (v : Word) : (s.writeCfg v).encPos = s.encPos := rfl
@[simp] theorem State.writeCfg_trace (s : State) (v : Word) : (s.writeCfg v).trace = s.trace := rfl
@[simp] theorem State.writeCfg_params (s : State) (v : Word) : (s.writeCfg v).params = s.params := rfl
@[simp] theorem State.writeCfg_encIn (s : State) (v : Word) : (s.writeCfg v).encIn = s.encIn := rfl
@[simp] theorem State.writeCfg_chipIn (s : State) (v : Word) : (s.writeCfg v).chipIn = s.chipIn := rfl
@[simp] theorem State.writeCfg_chips (s : State) (v : Word) : (s.writeCfg v).chips = s.chips := rfl
@[simp] theorem State.writeCfg_draws (s : State) (v : Word) : (s.writeCfg v).draws = s.draws := rfl
@[simp] theorem State.writeCfg_agenda (s : State) (v : Word) : (s.writeCfg v).agenda = s.agenda := rfl
@[simp] theorem State.writeCfg_turns (s : State) (v : Word) : (s.writeCfg v).turns = s.turns := rfl
@[simp] theorem State.writeCfg_hostProg (s : State) (v : Word) : (s.writeCfg v).hostProg = s.hostProg := rfl
@[simp] theorem State.writeCfg_hostPc (s : State) (v : Word) : (s.writeCfg v).hostPc = s.hostPc := rfl
@[simp] theorem State.writeCfg_hostVars (s : State) (v : Word) : (s.writeCfg v).hostVars = s.hostVars := rfl
@[simp] theorem State.writeCfg_rdata (s : State) (v : Word) : (s.writeCfg v).rdata = s.rdata := rfl

/-! ### State.requestUpdate -/

@[simp] theorem State.requestUpdate_tstate (s : State) (i : Nat) : (s.requestUpdate i).tstate = s.tstate := rfl
@[simp] theorem State.requestUpdate_regmode (s : State) (i : Nat) : (s.requestUpdate i).regmode = s.regmode := rfl
@[simp] theorem State.requestUpdate_mirrorEn (s : State) (i : Nat) : (s.requestUpdate i).mirrorEn = s.mirrorEn := rfl
@[simp] theorem State.requestUpdate_lastResult (s : State) (i : Nat) :
    (s.requestUpdate i).lastResult = s.lastResult := rfl
@[simp] theorem State.requestUpdate_fault (s : State) (i : Nat) : (s.requestUpdate i).fault = s.fault := rfl
@[simp] theorem State.requestUpdate_faultCode (s : State) (i : Nat) :
    (s.requestUpdate i).faultCode = s.faultCode := rfl
@[simp] theorem State.requestUpdate_buf (s : State) (i : Nat) : (s.requestUpdate i).buf = s.buf := rfl
@[simp] theorem State.requestUpdate_arr (s : State) (i : Nat) : (s.requestUpdate i).arr = s.arr := rfl
@[simp] theorem State.requestUpdate_dmaIdx (s : State) (i : Nat) : (s.requestUpdate i).dmaIdx = s.dmaIdx := rfl
@[simp] theorem State.requestUpdate_txRun (s : State) (i : Nat) : (s.requestUpdate i).txRun = s.txRun := rfl
@[simp] theorem State.requestUpdate_out (s : State) (i : Nat) : (s.requestUpdate i).out = s.out := rfl
@[simp] theorem State.requestUpdate_feedIe (s : State) (i : Nat) : (s.requestUpdate i).feedIe = s.feedIe := rfl
@[simp] theorem State.requestUpdate_htPend (s : State) (i : Nat) :
    (s.requestUpdate i).htPend = (s.htPend || (i + 1 == s.params.half && s.feedIe)) := rfl
@[simp] theorem State.requestUpdate_tcPend (s : State) (i : Nat) :
    (s.requestUpdate i).tcPend = (s.tcPend || (i + 1 == s.params.n && s.feedIe)) := rfl
@[simp] theorem State.requestUpdate_fillActive (s : State) (i : Nat) :
    (s.requestUpdate i).fillActive = s.fillActive := rfl
@[simp] theorem State.requestUpdate_fillKind (s : State) (i : Nat) : (s.requestUpdate i).fillKind = s.fillKind := rfl
@[simp] theorem State.requestUpdate_fillPos (s : State) (i : Nat) : (s.requestUpdate i).fillPos = s.fillPos := rfl
@[simp] theorem State.requestUpdate_fillEnd (s : State) (i : Nat) : (s.requestUpdate i).fillEnd = s.fillEnd := rfl
@[simp] theorem State.requestUpdate_fillHalf (s : State) (i : Nat) : (s.requestUpdate i).fillHalf = s.fillHalf := rfl
@[simp] theorem State.requestUpdate_fillZero (s : State) (i : Nat) : (s.requestUpdate i).fillZero = s.fillZero := rfl
@[simp] theorem State.requestUpdate_mwState (s : State) (i : Nat) : (s.requestUpdate i).mwState = s.mwState := rfl
@[simp] theorem State.requestUpdate_mwAcc (s : State) (i : Nat) : (s.requestUpdate i).mwAcc = s.mwAcc := rfl
@[simp] theorem State.requestUpdate_mwPol (s : State) (i : Nat) : (s.requestUpdate i).mwPol = s.mwPol := rfl
@[simp] theorem State.requestUpdate_dutyHigh (s : State) (i : Nat) : (s.requestUpdate i).dutyHigh = s.dutyHigh := rfl
@[simp] theorem State.requestUpdate_dutyLow (s : State) (i : Nat) : (s.requestUpdate i).dutyLow = s.dutyLow := rfl
@[simp] theorem State.requestUpdate_mirrorActive (s : State) (i : Nat) :
    (s.requestUpdate i).mirrorActive = s.mirrorActive := rfl
@[simp] theorem State.requestUpdate_mirror (s : State) (i : Nat) : (s.requestUpdate i).mirror = s.mirror := rfl
@[simp] theorem State.requestUpdate_cnt (s : State) (i : Nat) : (s.requestUpdate i).cnt = s.cnt := rfl
@[simp] theorem State.requestUpdate_delta (s : State) (i : Nat) : (s.requestUpdate i).delta = s.delta := rfl
@[simp] theorem State.requestUpdate_ccr1 (s : State) (i : Nat) : (s.requestUpdate i).ccr1 = s.ccr1 := rfl
@[simp] theorem State.requestUpdate_ccr2 (s : State) (i : Nat) : (s.requestUpdate i).ccr2 = s.ccr2 := rfl
@[simp] theorem State.requestUpdate_encPos (s : State) (i : Nat) : (s.requestUpdate i).encPos = s.encPos := rfl
@[simp] theorem State.requestUpdate_trace (s : State) (i : Nat) : (s.requestUpdate i).trace = s.trace := rfl
@[simp] theorem State.requestUpdate_params (s : State) (i : Nat) : (s.requestUpdate i).params = s.params := rfl
@[simp] theorem State.requestUpdate_encIn (s : State) (i : Nat) : (s.requestUpdate i).encIn = s.encIn := rfl
@[simp] theorem State.requestUpdate_chipIn (s : State) (i : Nat) : (s.requestUpdate i).chipIn = s.chipIn := rfl
@[simp] theorem State.requestUpdate_chips (s : State) (i : Nat) : (s.requestUpdate i).chips = s.chips := rfl
@[simp] theorem State.requestUpdate_draws (s : State) (i : Nat) : (s.requestUpdate i).draws = s.draws := rfl
@[simp] theorem State.requestUpdate_agenda (s : State) (i : Nat) : (s.requestUpdate i).agenda = s.agenda := rfl
@[simp] theorem State.requestUpdate_turns (s : State) (i : Nat) : (s.requestUpdate i).turns = s.turns := rfl
@[simp] theorem State.requestUpdate_hostProg (s : State) (i : Nat) : (s.requestUpdate i).hostProg = s.hostProg := rfl
@[simp] theorem State.requestUpdate_hostPc (s : State) (i : Nat) : (s.requestUpdate i).hostPc = s.hostPc := rfl
@[simp] theorem State.requestUpdate_hostVars (s : State) (i : Nat) : (s.requestUpdate i).hostVars = s.hostVars := rfl
@[simp] theorem State.requestUpdate_rdata (s : State) (i : Nat) : (s.requestUpdate i).rdata = s.rdata := rfl

end Sys2Proof.Machine
end

