-- ==== Sys2Proof/Laws/Exec.lean ====
section
/-! SUPPORT. What a meaning can do, said once: every meaning is one agent's step, with a condition and a body. -/

namespace Sys2Proof.Machine

/-! ### The form of a step -/

theorem takeStep_fault {e : Bool} {b s : State} (h : s.fault = true) :
    takeStep e b s = .fault (.stopped s.faultCode) := by simp [takeStep, h]

theorem takeStep_enabled {e : Bool} {b s : State} (h : s.fault = false) (he : e = true) :
    takeStep e b s = .next b := by simp [takeStep, h, he]

theorem takeStep_held {e : Bool} {b s : State} (h : s.fault = false) (he : e = false) :
    takeStep e b s = .next s := by simp [takeStep, h, he]

/-- A step that answers a next state: no fault before it, and either it was enabled and its body ran, or the turn
passed. -/
theorem takeStep_next {e : Bool} {b s t : State} (h : takeStep e b s = .next t) :
    s.fault = false ∧ ((e = true ∧ t = b) ∨ (e = false ∧ t = s)) := by
  unfold takeStep at h
  split at h
  · cases h
  · rename_i hf
    refine ⟨by simpa using hf, ?_⟩
    split at h
    · rename_i he
      cases h
      exact .inl ⟨he, rfl⟩
    · rename_i he
      cases h
      exact .inr ⟨by simpa using he, rfl⟩

theorem hostStep_ready {b s : State} (h : s.hostReady) : hostStep b s = .next b :=
  takeStep_enabled h.1 (by simp [h.2])

theorem hostStep_busy {b s : State} (h : s.fault = false) (hb : s.busy = true) : hostStep b s = .next s :=
  takeStep_held h (by simp [hb])

/-! ### Every meaning is a step with a condition and a body -/

/-- The body of an instruction's step. -/
def bodyOf (i : Instr) (s : State) : State :=
  match i with
  | .startTx => s.startTx
  | .stopTx => s.stopTx
  | .startRx => s.startRx
  | .stopRx => s.stopRx
  | .init => s.initCmd
  | .wrCmd v => s.command v
  | .rdStatus => s.answer s.statusWord
  | .txComplete => s.answer (if s.txComplete then 1 else 0)
  | .rdCfg => s.answer s.cfgWord
  | .wrCfg v => s.writeCfg v
  | .rdArr => s.answerOrDraw (s.tstate == .asyncTx) s.arr
  | .rdDmaIdx => s.answerOrDrawBelow (s.tstate == .asyncTx) (BitVec.ofNat 32 s.dmaIdx) s.params.n
  | .rdDutyHigh => s.answer s.dutyHigh
  | .rdDutyLow => s.answer s.dutyLow
  | .rdMwAcc => s.answer s.mwAcc
  | .rdCapDelta => s.answerOrDraw (s.tstate == .asyncRx) s.delta
  | .rdCapCcr1 => s.answerOrDraw (s.tstate == .asyncRx) s.ccr1
  | .rdCapCcr2 => s.answerOrDraw (s.tstate == .asyncRx) s.ccr2
  | .rdCnt => s.afterDraw.answer s.drawn
  | .rdBuf j => if j < s.params.n then s.readBuf j else s.raise .badAccess
  | .badAccess _ => s.raise .badAccess
  | .update => s.updateStep
  | .refillBegin => s.refillBegin
  | .pull => s.pullStep
  | .edgeFall k => s.edgeFall k
  | .edgeRise k => s.edgeRise k
  | .level l d => s.pulled.applyGen (s.gen.level l d)
  | .wait => s.pulled.applyGen (s.gen.wait s.params.guardTime)
  | .reset => s.pulled.applyGen s.gen.reset
  | .badReserved => s.pulled.applyGen s.gen.reserved

theorem exec_eq_takeStep (i : Instr) (s : State) : exec i s = takeStep (enabledOf i s) (bodyOf i s) s := by
  cases i <;> rfl

/-- What any meaning can do: it answers a next state only without a fault before it, by its body where it is enabled and
unchanged where it is not. -/
theorem exec_next {i : Instr} {s t : State} (h : exec i s = .next t) :
    s.fault = false ∧ ((enabledOf i s = true ∧ t = bodyOf i s) ∨ (enabledOf i s = false ∧ t = s)) :=
  takeStep_next (exec_eq_takeStep i s ▸ h)

/-- No meaning refuses. -/
theorem exec_not_refused (i : Instr) (s : State) (r : Refusal) : exec i s ≠ .refused r := by
  rw [exec_eq_takeStep]
  unfold takeStep
  split
  · simp
  · split <;> simp

/-! ### Spec lemmas of the shared operations -/

/-- A raise in a state without a fault. -/
theorem State.raise_of_ok {s : State} (c : FaultCode) (h : s.fault = false) :
    s.raise c = { s with fault := true, faultCode := c, trace := s.trace ++ [.fault c] } := by
  simp [State.raise, h]

/-- A pull with no reset pending is the pull of the stream's next event. -/
theorem State.pullStep_of_event {s : State} (h : s.mwState ≠ .resetPending) :
    s.pullStep = s.pulled.applyGen (s.gen.delta s.params.guardTime s.encHead) := by simp [State.pullStep, h]

@[simp] theorem State.setGen_gen (s : State) : s.setGen s.gen = s := rfl

/-- A pull with a reset pending writes the terminator and pulls nothing (40_normalizer R111). -/
theorem State.pullStep_of_resetPending {s : State} (h : s.mwState = .resetPending) : s.pullStep = s.writeZero := by
  simp [State.pullStep, h, State.applyGen]

/-- The end of a refill. -/
theorem State.finishFill_refill {s : State} (h : s.fillKind = .refill) :
    s.finishFill = { s with fillActive := false } := by simp [State.finishFill, h]

/-- The end of a pre-fill arms the timer. -/
theorem State.finishFill_prefill {s : State} (h : s.fillKind = .prefill) :
    s.finishFill = State.arm { s with fillActive := false } := by simp [State.finishFill, h]

/-- Arming where the chip reaches TX. -/
theorem State.arm_ok {s : State} (h : s.armTimer.chipGood = true) :
    s.arm = { s.armTimer.afterChip .tx with tstate := .asyncTx, lastResult := .ok } := by simp [State.arm, h]

/-- Arming where the chip does not answer. -/
theorem State.arm_timeout {s : State} (h : s.armTimer.chipGood = false) :
    s.arm = (s.armTimer.afterChip .tx).raise .chipTimeout := by simp [State.arm, h]

/-- The chip's next answer does not depend on what arming writes first. -/
theorem State.armTimer_chipGood (s : State) : s.armTimer.chipGood = s.chipGood := by
  simp [State.armTimer, State.chipGood]

/-! ### What a step never touches -/

/-- The fields no instruction writes: the parameters, the schedule and the host program; and the trace only grows. -/
structure State.Carries (s t : State) : Prop where
  params : t.params = s.params
  agenda : t.agenda = s.agenda
  turns : t.turns = s.turns
  hostProg : t.hostProg = s.hostProg
  hostPc : t.hostPc = s.hostPc
  hostVars : t.hostVars = s.hostVars
  trace : ∃ rs, t.trace = s.trace ++ rs

theorem State.Carries.refl (s : State) : s.Carries s := ⟨rfl, rfl, rfl, rfl, rfl, rfl, [], by simp⟩

theorem State.Carries.trans {s t u : State} (h : s.Carries t) (g : t.Carries u) : s.Carries u := by
  obtain ⟨rs, hr⟩ := h.trace
  obtain ⟨qs, hq⟩ := g.trace
  exact ⟨g.params.trans h.params, g.agenda.trans h.agenda, g.turns.trans h.turns, g.hostProg.trans h.hostProg,
    g.hostPc.trans h.hostPc, g.hostVars.trans h.hostVars, rs ++ qs, by rw [hq, hr, List.append_assoc]⟩

/-- Two updates in a row, the later one first. -/
theorem State.Carries.after {s t u : State} (g : t.Carries u) (h : s.Carries t) : s.Carries u := h.trans g

theorem State.carries_raise (s : State) (c : FaultCode) : s.Carries (s.raise c) :=
  ⟨by simp, by simp, by simp, by simp, by simp, by simp, by
    simp only [State.raise_trace]
    split
    · exact ⟨[], by simp⟩
    · exact ⟨_, rfl⟩⟩

theorem State.carries_driveMirror (s : State) (l : Level) : s.Carries (s.driveMirror l) :=
  ⟨by simp, by simp, by simp, by simp, by simp, by simp, by
    simp only [State.driveMirror_trace]
    split
    · exact ⟨_, rfl⟩
    · exact ⟨[], by simp⟩⟩

theorem State.carries_afterChip (s : State) (q : ChipReq) : s.Carries (s.afterChip q) :=
  ⟨rfl, rfl, rfl, rfl, rfl, rfl, _, rfl⟩

/-- An update that leaves these fields and the trace alone. -/
theorem State.carries_of_eq {s t : State} (h1 : t.params = s.params) (h2 : t.agenda = s.agenda)
    (h3 : t.turns = s.turns) (h4 : t.hostProg = s.hostProg) (h5 : t.hostPc = s.hostPc) (h6 : t.hostVars = s.hostVars)
    (h7 : t.trace = s.trace) : s.Carries t := ⟨h1, h2, h3, h4, h5, h6, [], by simp [h7]⟩

theorem State.carries_armTimer (s : State) : s.Carries s.armTimer :=
  State.Carries.after (t := State.driveMirror _ false) (State.carries_of_eq rfl rfl rfl rfl rfl rfl rfl)
    (State.Carries.after (State.carries_driveMirror _ false) (State.carries_of_eq rfl rfl rfl rfl rfl rfl rfl))

theorem State.carries_arm (s : State) : s.Carries s.arm := by
  refine s.carries_armTimer.trans ?_
  unfold State.arm
  dsimp only
  split
  · exact (State.carries_afterChip _ .tx).trans (State.carries_of_eq rfl rfl rfl rfl rfl rfl rfl)
  · exact (State.carries_afterChip _ .tx).trans (State.carries_raise _ _)

theorem State.carries_finishFill (s : State) : s.Carries s.finishFill := by
  unfold State.finishFill
  split
  · exact State.Carries.after (State.carries_arm _) (State.carries_of_eq rfl rfl rfl rfl rfl rfl rfl)
  · exact State.carries_of_eq rfl rfl rfl rfl rfl rfl rfl

theorem State.carries_applyGen (s : State) (r : GenResult) : s.Carries (s.applyGen r) := by
  unfold State.applyGen
  split
  · exact State.carries_of_eq rfl rfl rfl rfl rfl rfl rfl
  · split
    · exact State.Carries.after (State.carries_finishFill _) (State.carries_of_eq rfl rfl rfl rfl rfl rfl rfl)
    · unfold State.writeValue
      dsimp only
      split
      · exact State.Carries.after (State.carries_finishFill _) (State.carries_of_eq rfl rfl rfl rfl rfl rfl rfl)
      · exact State.carries_of_eq rfl rfl rfl rfl rfl rfl rfl
  · exact State.carries_raise _ _

theorem State.carries_pulled (s : State) : s.Carries s.pulled := State.carries_of_eq rfl rfl rfl rfl rfl rfl rfl

theorem State.carries_pullStep (s : State) : s.Carries s.pullStep := by
  unfold State.pullStep
  split
  · exact State.carries_applyGen _ _
  · exact s.carries_pulled.trans (State.carries_applyGen _ _)

theorem State.carries_startTx (s : State) : s.Carries s.startTx := by
  unfold State.startTx
  split <;> exact State.carries_of_eq rfl rfl rfl rfl rfl rfl rfl

theorem State.carries_stopTx (s : State) : s.Carries s.stopTx := by
  unfold State.stopTx
  split
  · split
    · exact (State.carries_afterChip s .idle).trans ⟨rfl, rfl, rfl, rfl, rfl, rfl, _, rfl⟩
    · exact (State.carries_afterChip s .idle).trans (State.carries_raise _ _)
  · exact State.carries_raise _ _

theorem State.carries_startRx (s : State) : s.Carries s.startRx := by
  have h : s.Carries (s.openRx.afterChip .rx) :=
    State.Carries.after (State.carries_afterChip _ .rx) (State.carries_of_eq rfl rfl rfl rfl rfl rfl rfl)
  unfold State.startRx
  split
  · split
    · exact h.trans (State.carries_of_eq rfl rfl rfl rfl rfl rfl rfl)
    · exact h.trans (State.carries_raise _ _)
  · exact State.carries_of_eq rfl rfl rfl rfl rfl rfl rfl

theorem State.carries_stopRx (s : State) : s.Carries s.stopRx := by
  unfold State.stopRx
  split
  · split
    · exact (State.carries_afterChip s .idle).trans (State.carries_of_eq rfl rfl rfl rfl rfl rfl rfl)
    · exact (State.carries_afterChip s .idle).trans (State.carries_raise _ _)
  · exact State.carries_raise _ _

theorem State.carries_initCmd (s : State) : s.Carries s.initCmd := by
  unfold State.initCmd
  split
  · exact State.carries_of_eq rfl rfl rfl rfl rfl rfl rfl
  · exact (State.carries_afterChip s .selfTest).trans (State.carries_of_eq rfl rfl rfl rfl rfl rfl rfl)

theorem State.carries_command (s : State) (v : Word) : s.Carries (s.command v) := by
  unfold State.command
  split
  · split
    · exact s.carries_startTx
    · exact s.carries_stopTx
    · exact s.carries_startRx
    · exact s.carries_stopRx
    · exact s.carries_initCmd
    · exact State.carries_raise _ _
  · exact State.carries_raise _ _

theorem State.carries_edge (s : State) (t : State) (l : Level) (r : Record) (h : s.Carries t) :
    s.Carries ((t.driveMirror l).emit r) :=
  (h.trans (State.carries_driveMirror t l)).trans ⟨rfl, rfl, rfl, rfl, rfl, rfl, _, rfl⟩

theorem State.carries_transfer (s : State) : s.Carries s.transfer := by
  unfold State.transfer
  dsimp only
  refine .trans (.trans (.trans (t := s.emit (.seg s.out (s.arr.toNat + 1)))
    ⟨rfl, rfl, rfl, rfl, rfl, rfl, _, rfl⟩ ?_) (State.carries_driveMirror _ _))
    (State.carries_of_eq rfl rfl rfl rfl rfl rfl rfl)
  exact State.carries_of_eq (by simp) (by simp) (by simp) (by simp) (by simp) (by simp) (by simp)

/-- What no instruction touches. -/
theorem exec_carries {i : Instr} {s t : State} (h : exec i s = .next t) : s.Carries t := by
  rcases (exec_next h).2 with ⟨-, rfl⟩ | ⟨-, rfl⟩
  swap
  · exact .refl _
  cases i <;> simp only [bodyOf]
  case startTx => exact s.carries_startTx
  case stopTx => exact s.carries_stopTx
  case startRx => exact s.carries_startRx
  case stopRx => exact s.carries_stopRx
  case init => exact s.carries_initCmd
  case wrCmd v => exact s.carries_command v
  case rdArr | rdCapDelta | rdCapCcr1 | rdCapCcr2 =>
    unfold State.answerOrDraw
    split <;> exact State.carries_of_eq rfl rfl rfl rfl rfl rfl rfl
  case rdDmaIdx =>
    unfold State.answerOrDrawBelow
    split <;> exact State.carries_of_eq rfl rfl rfl rfl rfl rfl rfl
  case rdBuf j =>
    split
    · unfold State.readBuf
      split <;> exact State.carries_of_eq (by simp) (by simp) (by simp) (by simp) (by simp) (by simp) (by simp)
    · exact State.carries_raise _ _
  case badAccess => exact State.carries_raise _ _
  case update =>
    unfold State.updateStep
    split
    · exact State.carries_raise _ _
    · exact s.carries_transfer
  case pull => exact s.carries_pullStep
  case edgeFall k =>
    exact State.carries_edge _ _ _ _
      (State.carries_of_eq (by simp) (by simp) (by simp) (by simp) (by simp) (by simp) (by simp))
  case edgeRise k =>
    exact State.carries_edge _ _ _ _
      (State.carries_of_eq (by simp) (by simp) (by simp) (by simp) (by simp) (by simp) (by simp))
  case level l d => exact s.carries_pulled.trans (State.carries_applyGen _ _)
  case wait => exact s.carries_pulled.trans (State.carries_applyGen _ _)
  case reset => exact s.carries_pulled.trans (State.carries_applyGen _ _)
  case badReserved => exact s.carries_pulled.trans (State.carries_applyGen _ _)
  all_goals exact State.carries_of_eq rfl rfl rfl rfl rfl rfl rfl

end Sys2Proof.Machine
end

