-- ==== Sys2Proof/Laws/Fetch.lean ====
section
/-! SUPPORT. What fetching can do, said once. -/

namespace Sys2Proof.Machine

/-- A slot that does not wait is taken first. -/
theorem takeReady_head {busy : Bool} {x : Slot} (xs : List Slot) (h : busy = true → slotIsHost x = false) :
    takeReady busy (x :: xs) = some (x, xs) := by
  cases busy
  · simp [takeReady]
  · simp [takeReady, h rfl]

/-- A slot that waits stays first. -/
theorem takeReady_waits {x : Slot} (xs : List Slot) (h : slotIsHost x = true) :
    takeReady true (x :: xs) = (takeReady true xs).map (fun r => (r.1, x :: r.2)) := by
  simp [takeReady, h]

/-- While the feeder runs, no HOST slot is taken. -/
theorem takeReady_not_host {xs : List Slot} {x : Slot} {rest : List Slot} (h : takeReady true xs = some (x, rest)) :
    slotIsHost x = false := by
  induction xs generalizing rest with
  | nil => cases h
  | cons y ys ih =>
    cases hy : slotIsHost y
    · simp only [takeReady, hy, Bool.and_false] at h
      cases h
      exact hy
    · rw [takeReady_waits ys hy] at h
      obtain ⟨⟨z, r⟩, hz, he⟩ := Option.map_eq_some_iff.mp h
      cases he
      exact ih hz

/-- The variable assigned reads as assigned. -/
@[simp] theorem State.hostVar_setHostVar (s : State) (x : Nat) (v : Word) : (s.setHostVar x v).hostVar x = v := by
  simp [State.hostVar, State.setHostVar]

/-- Every other variable keeps its value. -/
theorem State.hostVar_setHostVar_other (s : State) {x y : Nat} (v : Word) (h : y ≠ x) :
    (s.setHostVar x v).hostVar y = s.hostVar y := by
  simp only [State.hostVar, State.setHostVar, List.lookup_cons, beq_false_of_ne h]
  congr 1
  induction s.hostVars with
  | nil => rfl
  | cons e es ih =>
    obtain ⟨z, w⟩ := e
    by_cases hz : z = x
    · subst hz
      simp [List.lookup_cons, beq_false_of_ne h, ih]
    · by_cases hy : y = z
      · subst hy
        simp [hz]
      · simp [List.lookup_cons, hz, beq_false_of_ne hy, ih]

/-- What `latchRead` can do: the variable is written only after a read that raised no fault, with the value read. -/
theorem latchRead_next {var : Option Nat} {o : Host.Outcome State Fault Refusal} {t : State}
    (h : latchRead var o = .next t) :
    ∃ u, o = .next u ∧ (t = u ∨ ∃ x, var = some x ∧ u.fault = false ∧ t = u.setHostVar x u.rdata) := by
  cases o with
  | next u =>
    cases var with
    | none => cases h; exact ⟨_, rfl, .inl rfl⟩
    | some x =>
      cases hf : u.fault <;> simp only [latchRead, hf, State.readBytes, busWord_busBytes] at h <;> cases h
      · exact ⟨u, rfl, .inr ⟨x, rfl, hf, rfl⟩⟩
      · exact ⟨u, rfl, .inl rfl⟩
  | fault r => cases var <;> cases h
  | refused r => cases var <;> cases h

/-- The fields of the block a fetch leaves alone: it moves only the agenda, the turn count and the host program's
place. -/
structure State.SameBlock (s t : State) : Prop where
  eq : t = { s with agenda := t.agenda, turns := t.turns, hostPc := t.hostPc }

theorem State.SameBlock.refl (s : State) : s.SameBlock s := ⟨rfl⟩

theorem State.SameBlock.trans {s t u : State} (h : s.SameBlock t) (g : t.SameBlock u) : s.SameBlock u :=
  ⟨by
    have hu := g.eq
    rw [h.eq] at hu
    exact hu⟩

theorem fetchPacket_run {p : Packet} {v x : Option Nat} {s t : State} {i : Instr} (h : fetchPacket p v s = .run i t x) :
    decode s.params p = .ok i ∧ t = s ∧ x = v := by
  unfold fetchPacket at h
  split at h
  · rename_i hd
    cases h
    exact ⟨hd, rfl, rfl⟩
  · cases h

theorem fetchPacket_pass {p : Packet} {v : Option Nat} {s t : State} : fetchPacket p v s ≠ .pass t := by
  unfold fetchPacket
  split <;> simp

theorem fetchPacket_compute {p : Packet} {v : Option Nat} {s t : State} : fetchPacket p v s ≠ .compute t := by
  unfold fetchPacket
  split <;> simp

/-- The state a fetch gives, where it refuses nothing. -/
def Fetched.Gives (f : Fetched) (t : State) : Prop :=
  f = .pass t ∨ f = .compute t ∨ ∃ i x, f = .run i t x

theorem fetchPacket_gives {p : Packet} {v : Option Nat} {s t : State} (h : (fetchPacket p v s).Gives t) : t = s := by
  rcases h with h | h | ⟨i, x, h⟩
  · exact absurd h fetchPacket_pass
  · exact absurd h fetchPacket_compute
  · exact (fetchPacket_run h).2.1

theorem hostStatement_block {s t : State} (h : (hostStatement s).Gives t) : s.SameBlock t := by
  unfold hostStatement at h
  split at h
  case h_1 | h_2 => rw [fetchPacket_gives h]; exact ⟨rfl⟩
  all_goals
    rcases h with h | h | ⟨i, x, h⟩ <;> cases h
    exact ⟨rfl⟩

theorem fetchTurn_block {t : Turn} {s u : State} (h : (fetchTurn t s).Gives u) : s.SameBlock u := by
  cases t with
  | host =>
    simp only [fetchTurn] at h
    split at h
    · rcases h with h | h | ⟨i, x, h⟩ <;> cases h
      exact .refl _
    · exact hostStatement_block h
  | timerDma | feeder | fall k | rise k =>
    rcases h with h | h | ⟨i, x, h⟩ <;> cases h
    exact .refl _

/-- A fetch changes nothing of the block. -/
theorem fetch_block {s u : State} (h : (fetch s).Gives u) : s.SameBlock u := by
  unfold fetch at h
  split at h
  · rw [fetchPacket_gives h]
    exact ⟨rfl⟩
  · rename_i rest _
    exact .trans (t := { s with agenda := rest }) ⟨rfl⟩ (fetchTurn_block h)
  · exact .trans (t := { s with turns := s.turns + 1 }) ⟨rfl⟩ (fetchTurn_block h)

/-- What one step of the machine can do: no fault before it, and either it ran an instruction on a state with the same
block, with the host's variable written after a read that raised no fault, or it left the block alone. -/
theorem step_next {s t : State} (h : step s = .next t) :
    s.fault = false ∧
      ((∃ u, s.SameBlock u ∧ t = u) ∨
        ∃ u i w, s.SameBlock u ∧ exec i u = .next w ∧ (t = w ∨ ∃ x, w.fault = false ∧ t = w.setHostVar x w.rdata)) := by
  unfold step stepOnce at h
  split at h
  · cases h
  · rename_i hf
    refine ⟨by simpa using hf, ?_⟩
    split at h
    · rename_i i u x hu
      obtain ⟨w, hw, ht⟩ := latchRead_next h
      exact .inr ⟨u, i, w, fetch_block (.inr (.inr ⟨i, x, hu⟩)), hw, ht.imp id fun ⟨x, _, hf, e⟩ => ⟨x, hf, e⟩⟩
    · rename_i u hu
      cases h
      exact .inl ⟨t, fetch_block (.inr (.inl hu)), rfl⟩
    · rename_i u hu
      cases h
      exact .inl ⟨t, fetch_block (.inl hu), rfl⟩
    · cases h

/-- A property of the block that every instruction keeps, and that does not look at the schedule or the host's own
fields, is kept by every step. -/
theorem step_keeps {P : State → Prop}
    (hs : ∀ s u, s.SameBlock u → P s → P u)
    (hv : ∀ s x v, P s → P (s.setHostVar x v))
    (he : ∀ i s t, s.fault = false → P s → exec i s = .next t → P t) {s t : State} (h : step s = .next t) (p : P s) :
    P t := by
  obtain ⟨hf, ⟨u, hu, rfl⟩ | ⟨u, i, w, hu, hw, ht⟩⟩ := step_next h
  · exact hs _ _ hu p
  · have hfu : u.fault = false := by
      have := congrArg State.fault hu.eq
      exact this.trans hf
    have pw := he i u w hfu (hs _ _ hu p) hw
    rcases ht with rfl | ⟨x, -, rfl⟩
    · exact pw
    · exact hv _ _ _ pw

end Sys2Proof.Machine
end

