-- ==== Sys2Proof/Laws/PerInstr.lean ====
section
/-! SUPPORT. Facts about every instruction as syntax, one lemma per constructor. -/

namespace Sys2Proof.Laws.HostForm

/-- An instruction is a HOST step exactly when its encoding is a host packet (00_scope R7, 30_encoding R80). -/
def Statement (i : Instr) : Prop := Machine.packetIsHost (encode i) = Machine.instrIsHost i

theorem startTx : Statement .startTx := rfl
theorem stopTx : Statement .stopTx := rfl
theorem startRx : Statement .startRx := rfl
theorem stopRx : Statement .stopRx := rfl
theorem init : Statement .init := rfl
theorem wrCmd (v : Word) : Statement (.wrCmd v) := rfl
theorem rdStatus : Statement .rdStatus := rfl
theorem txComplete : Statement .txComplete := rfl
theorem rdCfg : Statement .rdCfg := rfl
theorem wrCfg (v : Word) : Statement (.wrCfg v) := rfl
theorem rdArr : Statement .rdArr := rfl
theorem rdDmaIdx : Statement .rdDmaIdx := rfl
theorem rdDutyHigh : Statement .rdDutyHigh := rfl
theorem rdDutyLow : Statement .rdDutyLow := rfl
theorem rdMwAcc : Statement .rdMwAcc := rfl
theorem rdCapDelta : Statement .rdCapDelta := rfl
theorem rdCapCcr1 : Statement .rdCapCcr1 := rfl
theorem rdCapCcr2 : Statement .rdCapCcr2 := rfl
theorem rdCnt : Statement .rdCnt := rfl
theorem rdBuf (i : Nat) : Statement (.rdBuf i) := rfl
theorem badAccess (a : Access) : Statement (.badAccess a) := rfl
theorem update : Statement .update := rfl
theorem refillBegin : Statement .refillBegin := rfl
theorem pull : Statement .pull := rfl
theorem edgeFall (k : Word) : Statement (.edgeFall k) := rfl
theorem edgeRise (k : Word) : Statement (.edgeRise k) := rfl
theorem level (l : Level) (d : Word) : Statement (.level l d) := rfl
theorem wait : Statement .wait := rfl
theorem reset : Statement .reset := rfl
theorem badReserved : Statement .badReserved := rfl

end Sys2Proof.Laws.HostForm
end

