-- ==== Sys2Proof/Tests/Slice0.lean ====
section
/-! SUPPORT. The model's own tests: well-formedness, one word per constructor written out from spec/30_encoding.md, one
step per instruction with results from spec/95_test_vectors.md or from the rule itself, and a witness for the hypotheses
of every statement. -/

namespace Sys2Proof.Tests

open Sys2Proof.Machine

/-! ### States to test on: the parameters of 95_test_vectors -/

def params4 : Params := ⟨2, 5, 9, 4294967296, .hold, 0x40000000⟩

def base : State :=
  { State.reset with
    params := params4, arr := 0, fillKind := .prefill, fillPos := 0, fillEnd := 4, fillHalf := .first, hostProg := [] }

/-- IDLE with permission to transmit; the chip answers well next. -/
def idle : State := { base with tstate := .idle, regmode := true, chipIn := [true] }

/-- A transmit session before its first UPDATE. -/
def tx : State :=
  { idle with tstate := .asyncTx, txRun := true, feedIe := true, arr := 9, buf := [(0, 2), (1, 1), (2, 3), (3, 7)] }

/-- A receive session. -/
def rx : State := { idle with tstate := .asyncRx }

/-- A pre-fill at its first word. -/
def fill : State := { idle with fillActive := true }

/-- A refill of half 0 in a transmit session. -/
def refill : State := { tx with fillActive := true, fillKind := .refill, fillPos := 0, fillEnd := 2 }

/-- The generator set to a state of the notation of 95_test_vectors. -/
def withGen (s : State) (m : MwState) (a : Word) (p : Level) : State := { s with mwState := m, mwAcc := a, mwPol := p }

/-- The outcome is a next state, and `p` holds of it. -/
def ends (o : Host.Outcome State Fault Refusal) (p : State → Bool) : Bool :=
  match o with
  | .next t => p t
  | .fault _ => false
  | .refused _ => false

/-- The last `n` records. -/
def lastRecords (n : Nat) (s : State) : List Record := s.trace.drop (s.trace.length - n)

/-! ### Well-formedness: an ill-formed term for each check -/

theorem test_wf_rdBuf : (Instr.rdBuf 255).wellFormed params4 = true ∧ (Instr.rdBuf 256).wellFormed params4 = false := by
  decide

theorem test_wf_badAccess_desc :
    (Instr.badAccess (.desc 0x0000#13 0)).wellFormed params4 = true ∧
    (Instr.badAccess (.desc 0x0004#13 0)).wellFormed params4 = false ∧
    (Instr.badAccess (.desc 0x1000#13 0)).wellFormed params4 = false ∧
    (Instr.badAccess (.desc 0x1008#13 0)).wellFormed params4 = false ∧
    (Instr.badAccess (.desc 0x07FC#13 0)).wellFormed params4 = false := by decide

theorem test_wf_badAccess_bus :
    (Instr.badAccess (.load 0x40000004 2)).wellFormed params4 = true ∧
    (Instr.badAccess (.load 0x40000004 4)).wellFormed params4 = false ∧
    (Instr.badAccess (.store 0x40000000 [1, 0])).wellFormed params4 = true ∧
    (Instr.badAccess (.store 0x40000000 [1, 0, 0, 0])).wellFormed params4 = false := by decide

/-! ### Decoding: words written out bit by bit (30_encoding R81 to R94) -/

theorem test_decode_commands :
    decode params4 (.cmd 0b00000000000000000000000000000001#32) = .ok .startTx ∧
    decode params4 (.cmd 0b00000000000000000000000000000010#32) = .ok .stopTx ∧
    decode params4 (.cmd 0b00000000000000000000000000000011#32) = .ok .startRx ∧
    decode params4 (.cmd 0b00000000000000000000000000000100#32) = .ok .stopRx ∧
    decode params4 (.cmd 0b00000000000000000000000000000101#32) = .ok .init ∧
    decode params4 (.cmd 0x00000105#32) = .ok (.wrCmd 0x00000105#32) := ⟨rfl, rfl, rfl, rfl, rfl, rfl⟩

theorem test_decode_writes :
    decode params4 (.mmio (.desc 0b1000000000000#13 5#32)) = .ok (.wrCmd 5#32) ∧
    decode params4 (.mmio (.desc 0b1000000001000#13 3#32)) = .ok (.wrCfg 3#32) := by decide

theorem test_decode_status_and_config_reads :
    decode params4 (.mmio (.desc 0b0000000000100#13 0)) = .ok .rdStatus ∧
    decode params4 .txQuery = .ok .txComplete ∧
    decode params4 (.mmio (.desc 0b0000000001000#13 0)) = .ok .rdCfg := by decide

theorem test_decode_transmit_reads :
    decode params4 (.mmio (.desc 0b0000000001100#13 0)) = .ok .rdArr ∧
    decode params4 (.mmio (.desc 0b0000000010000#13 0)) = .ok .rdDmaIdx ∧
    decode params4 (.mmio (.desc 0b0000000010100#13 0)) = .ok .rdDutyHigh ∧
    decode params4 (.mmio (.desc 0b0000000011000#13 0)) = .ok .rdDutyLow ∧
    decode params4 (.mmio (.desc 0b0000000011100#13 0)) = .ok .rdMwAcc := by decide

theorem test_decode_capture_and_buffer_reads :
    decode params4 (.mmio (.desc 0b0000000100000#13 0)) = .ok .rdCapDelta ∧
    decode params4 (.mmio (.desc 0b0000000100100#13 0)) = .ok .rdCapCcr1 ∧
    decode params4 (.mmio (.desc 0b0000000101000#13 0)) = .ok .rdCapCcr2 ∧
    decode params4 (.mmio (.desc 0b0000000101100#13 0)) = .ok .rdCnt ∧
    decode params4 (.mmio (.desc 0b0010000001100#13 0)) = .ok (.rdBuf 3) ∧
    decode params4 (.mmio (.desc 0b0011111111100#13 0)) = .ok (.rdBuf 255) := by decide

theorem test_decode_bad_accesses :
    decode params4 (.mmio (.desc 0b0000000000000#13 0)) = .ok (.badAccess (.desc 0x0000#13 0)) ∧
    decode params4 (.mmio (.desc 0b1000000000100#13 0)) = .ok (.badAccess (.desc 0x1004#13 0)) ∧
    decode params4 (.mmio (.desc 0b0000000110000#13 0)) = .ok (.badAccess (.desc 0x0030#13 0)) ∧
    decode params4 (.mmio (.load 0x40000006 4)) = .ok (.badAccess (.load 0x40000006 4)) ∧
    decode params4 (.mmio (.load 0x40001000 4)) = .ok (.badAccess (.load 0x40001000 4)) ∧
    decode params4 (.mmio (.load 0x40000004 4)) = .ok .rdStatus := by decide

/-- The byte at the lowest address is the low one (20_memory R64), in a store and in what a read returned. -/
theorem test_bus_bytes :
    decode params4 (.mmio (.store 0x40000000 [0x01, 0x02, 0x03, 0x04])) = .ok (.wrCmd 0x04030201) ∧
    decode params4 (.mmio (.store 0x40000000 [0x05, 0x00])) = .ok (.badAccess (.store 0x40000000 [0x05, 0x00])) ∧
    State.readBytes { base with rdata := 0x0004101C } = [0x1C, 0x10, 0x04, 0x00] := by decide

theorem test_decode_events :
    decode params4 (.event 0b0001#4 0) = .ok .update ∧ decode params4 (.event 0b0010#4 0) = .ok .refillBegin ∧
    decode params4 (.event 0b0011#4 0) = .ok .pull ∧ decode params4 (.event 0b0100#4 12) = .ok (.edgeFall 12) ∧
    decode params4 (.event 0b0101#4 5) = .ok (.edgeRise 5) ∧
    decode params4 (.event 0b0110#4 0) = .error (.unusedEventCode 0x6#4) := by decide

theorem test_decode_encoder_words :
    decode params4 (.encoder ⟨0b00#2, true, 300⟩) = .ok (.level true 300) ∧
    decode params4 (.encoder ⟨0b01#2, true, 300⟩) = .ok .wait ∧
    decode params4 (.encoder ⟨0b10#2, true, 300⟩) = .ok .reset ∧
    decode params4 (.encoder ⟨0b11#2, true, 300⟩) = .ok .badReserved := by decide

/-! ### One step each: the vectors of 95_test_vectors -/

/-- T6, T1. -/
theorem test_startTx :
    ends (exec .startTx idle) (fun t =>
      t.fillActive && t.busy && t.fillPos == 0 && t.fillEnd == 4 && t.tstate == .idle && t.mwState == .idle) = true ∧
    ends (exec .startTx { idle with regmode := false }) (fun t =>
      t.lastResult == .rejected && t.tstate == .idle && t.trace == [] && t.encPos == 0) = true := by decide

/-- T8, T10. -/
theorem test_stopTx_faults :
    ends (exec .stopTx idle) (fun t => t.fault && t.faultCode == .stopWrongState) = true ∧
    ends (exec .stopTx { tx with chipIn := [false] }) (fun t =>
      t.trace == [.chip .idle .timeout, .fault .chipTimeout]) = true := by decide

/-- T12. -/
theorem test_stopTx :
    ends (exec .stopTx { tx with arr := 0 }) (fun t =>
      t.trace == [.chip .idle .ok, .dutyLog 0 0 0] && t.tstate == .idle && !t.txRun && t.lastResult == .ok) = true := by
  decide

/-- T11: the percentage of 7 and 2. -/
theorem test_dutyPct : dutyPct 7 2 = 700 / 9 ∧ dutyPct 0 0 = 0 := by
  refine ⟨?_, rfl⟩
  show (if 7 + 2 = 0 then 0 else mkRat (7 * 100) (7 + 2)) = 700 / 9
  norm_num [Rat.mkRat_eq_div]

/-- X1, X4. -/
theorem test_startRx :
    ends (exec .startRx { idle with cnt := 5, delta := 6, ccr1 := 7, ccr2 := 8 }) (fun t =>
      t.cnt == 0 && t.delta == 0 && t.ccr1 == 0 && t.ccr2 == 0 && t.trace == [.chip .rx .ok] &&
        t.tstate == .asyncRx && t.lastResult == .ok) = true ∧
    ends (exec .startRx { idle with chipIn := [false] }) (fun t =>
      t.trace == [.chip .rx .timeout, .fault .chipTimeout] && t.tstate == .idle) = true := by decide

/-- X6, X5. -/
theorem test_stopRx :
    ends (exec .stopRx { rx with mirrorActive := true }) (fun t =>
      t.trace == [.chip .idle .ok] && !t.mirrorActive && t.tstate == .idle && t.lastResult == .ok) = true ∧
    ends (exec .stopRx idle) (fun t => t.faultCode == .stopWrongState) = true := by decide

/-- I1, I4. -/
theorem test_init :
    ends (exec .init { base with chipIn := [true] }) (fun t =>
      t.trace == [.chip .selfTest .pass] && t.tstate == .idle && t.lastResult == .ok) = true ∧
    ends (exec .init { idle with chipIn := [false] }) (fun t =>
      t.trace == [.chip .selfTest .fail] && t.tstate == .faulty && t.lastResult == .ok && !t.fault) = true := by decide

/-- H11 to H14, and INIT through CMD. -/
theorem test_wrCmd :
    ends (exec (.wrCmd 0x00000000) base) (fun t => t.faultCode == .illegalCommand) = true ∧
    ends (exec (.wrCmd 0x00000006) base) (fun t => t.faultCode == .illegalCommand) = true ∧
    ends (exec (.wrCmd 0x00000105) base) (fun t => t.faultCode == .illegalCommand && t.tstate == .uninit) = true ∧
    ends (exec (.wrCmd 0x000000FF) base) (fun t => t.faultCode == .illegalCommand) = true ∧
    ends (exec (.wrCmd 0x00000005) { base with chipIn := [true] }) (fun t => t.tstate == .idle) = true := by decide

/-- The STATUS words of 95_test_vectors: reset, IDLE after INIT, a rejected START_TX, P1 halted, P3's end. -/
theorem test_rdStatus :
    ends (exec .rdStatus base) (fun t => t.rdata == 0x00000000) = true ∧
    ends (exec .rdStatus { idle with lastResult := .ok }) (fun t => t.rdata == 0x00001002) = true ∧
    ends (exec .rdStatus { idle with lastResult := .rejected }) (fun t => t.rdata == 0x00002002) = true ∧
    ends (exec .rdStatus { idle with tstate := .asyncTx, mwState := .resetPending, lastResult := .ok, txRun := true })
      (fun t => t.rdata == 0x0004101C) = true ∧
    ends (exec .rdStatus { idle with lastResult := .ok, mirror := true }) (fun t => t.rdata == 0x00201002) = true := by
  decide

theorem test_txComplete :
    ends (exec .txComplete tx) (fun t => t.rdata == 0) = true ∧
    ends (exec .txComplete { tx with arr := 0 }) (fun t => t.rdata == 1) = true ∧
    ends (exec .txComplete idle) (fun t => t.rdata == 0) = true := by decide

/-- H1, H2. -/
theorem test_cfg :
    ends (exec (.wrCfg 0xFFFFFFFF) base) (fun t => ends (exec .rdCfg t) (fun u => u.rdata == 0x00000003)) = true ∧
    ends (exec (.wrCfg 0x00000002) base) (fun t =>
      !t.regmode && t.mirrorEn && ends (exec .rdCfg t) (fun u => u.rdata == 0x00000002)) = true := by decide

/-- The transmit values in ASYNC_TX, with no draw used. -/
theorem test_transmit_reads :
    ends (exec .rdArr tx) (fun t => t.rdata == 9 && t.draws == 0) = true ∧
    ends (exec .rdDmaIdx { tx with dmaIdx := 3 }) (fun t => t.rdata == 3 && t.draws == 0) = true ∧
    ends (exec .rdDutyHigh { tx with dutyHigh := 40 }) (fun t => t.rdata == 40) = true ∧
    ends (exec .rdDutyLow { tx with dutyLow := 65 }) (fun t => t.rdata == 65) = true ∧
    ends (exec .rdMwAcc { tx with mwAcc := 500 }) (fun t => t.rdata == 500) = true ∧
    ends (exec (.rdBuf 3) tx) (fun t => t.rdata == 7 && t.draws == 0) = true := by decide

/-- The capture values in ASYNC_RX, with no draw used. -/
theorem test_capture_reads :
    ends (exec .rdCapDelta { rx with delta := 9 }) (fun t => t.rdata == 9 && t.draws == 0) = true ∧
    ends (exec .rdCapCcr1 { rx with ccr1 := 9 }) (fun t => t.rdata == 9 && t.draws == 0) = true ∧
    ends (exec .rdCapCcr2 { rx with ccr2 := 12 }) (fun t => t.rdata == 12 && t.draws == 0) = true := by decide

/-- Reads in the reset state that are draws: one draw is used, whatever its value. -/
theorem test_draw_reads :
    ends (exec .rdArr base) (fun t => t.draws == 1) = true ∧ ends (exec .rdDmaIdx base) (fun t => t.draws == 1) = true ∧
    ends (exec .rdCapDelta base) (fun t => t.draws == 1) = true ∧
    ends (exec .rdCapCcr1 base) (fun t => t.draws == 1) = true ∧
    ends (exec .rdCapCcr2 base) (fun t => t.draws == 1) = true ∧
    ends (exec .rdCnt rx) (fun t => t.draws == 1) = true ∧
    ends (exec (.rdBuf 3) base) (fun t => t.draws == 1 && !t.fault) = true := by decide

/-- H3 and H9. -/
theorem test_bad_accesses :
    ends (exec (.badAccess (.desc 0x0000#13 0)) base) (fun t => t.fault && t.faultCode == .badAccess) = true ∧
    ends (exec (.rdBuf 4) tx) (fun t => t.fault && t.faultCode == .badAccess) = true := by decide

/-- T18, T22, T23, T24. -/
theorem test_update :
    ends (exec .update tx) (fun t =>
      t.trace == [.seg false 10] && t.out && t.arr == 2 && t.dmaIdx == 1 && !t.htPend) = true ∧
    ends (exec .update { tx with out := true, arr := 5, dmaIdx := 2, buf := [(2, 0)] }) (fun t =>
      t.trace == [.seg true 6] && !t.out && t.arr == 0 && t.dmaIdx == 3 && t.txComplete) = true ∧
    ends (exec .update { tx with out := false, arr := 5, dmaIdx := 1, buf := [(1, 0)] }) (fun t => !t.out) = true ∧
    ends (exec .update { tx with out := true, arr := 0xFFFFFFFF }) (fun t => t.trace == [.seg true 4294967296]) = true := by
  decide

/-- T19, T20, T26, T27. -/
theorem test_update_requests :
    ends (exec .update { tx with out := true, arr := 2, dmaIdx := 1 }) (fun t =>
      t.trace == [.seg true 3] && !t.out && t.arr == 1 && t.dmaIdx == 2 && t.htPend && !t.tcPend) = true ∧
    ends (exec .update { tx with arr := 1, dmaIdx := 3 }) (fun t =>
      t.out && t.arr == 7 && t.dmaIdx == 0 && t.tcPend && !t.htPend) = true ∧
    ends (exec .update { tx with htPend := true }) (fun t => t == { tx with htPend := true }) = true ∧
    ends (exec .update { tx with htPend := true, params := { params4 with policy := .fault } }) (fun t =>
      t.trace == [.fault .txUnderrun]) = true := by decide

/-- T32, T33, T34. -/
theorem test_refillBegin :
    ends (exec .refillBegin { tx with tcPend := true }) (fun t =>
      t.fillPos == 2 && t.fillEnd == 4 && t.fillHalf == .second && !t.tcPend) = true ∧
    ends (exec .refillBegin { tx with htPend := true, tcPend := true }) (fun t =>
      t.fillHalf == .first && t.tcPend && !t.htPend) = true ∧
    ends (exec .refillBegin { tx with htPend := true, tcPend := true, dmaIdx := 2 }) (fun t =>
      t.fillHalf == .second && t.htPend && !t.tcPend) = true := by decide

/-- T38 by a pull with a reset pending (N18: the reserved event next in the stream is not pulled); and a pull of the
stream's next event (N3). -/
theorem test_pull :
    ends (exec .pull { withGen refill .resetPending 0 false with fillPos := 1, tcPend := true, encIn := [⟨0b11#2, false, 0⟩] })
      (fun t => t.buf == [(0, 2), (1, 0), (2, 3), (3, 7)] && t.fillZero && !t.feedIe && !t.tcPend && !t.fillActive &&
        t.encPos == 0 && !t.fault) = true ∧
    ends (exec .pull { fill with encIn := [⟨0b00#2, true, 300⟩] }) (fun t =>
      t.gen == ⟨.running, 300, true⟩ && t.encPos == 1 && t.encIn == []) = true := by decide

/-- N2, N3, N6. -/
theorem test_level :
    ends (exec (.level false 500) fill) (fun t => t.gen == ⟨.idle, 0, false⟩ && t.encPos == 1) = true ∧
    ends (exec (.level true 300) fill) (fun t => t.gen == ⟨.running, 300, true⟩) = true ∧
    ends (exec (.level true 2) (withGen fill .running 0xFFFFFFFF true)) (fun t => t.gen == ⟨.running, 1, true⟩) = true := by
  decide

/-- N7 at T36's place, and N8. -/
theorem test_level_change :
    ends (exec (.level false 250) { withGen fill .running 30 true with fillPos := 2, dutyHigh := 10 }) (fun t =>
      t.gen == ⟨.running, 250, false⟩ && t.buf == [(2, 29)] && t.dutyHigh == 40 && t.fillPos == 3) = true ∧
    ends (exec (.level false 7) (withGen fill .running 0 true)) (fun t =>
      t.gen == ⟨.running, 7, false⟩ && t.buf == [(0, 0)] && !t.fillActive && !t.feedIe) = true := by decide

/-- N9 at T37's place (the fill ends and arms), and N11. -/
theorem test_wait :
    ends (exec .wait { withGen fill .running 40 false with fillPos := 3, dutyLow := 20 }) (fun t =>
      t.gen == ⟨.running, 0, true⟩ && t.buf == [(3, 44)] && t.dutyLow == 65 && t.fillPos == 4 && !t.fillActive &&
        t.tstate == .asyncTx && t.arr == 9 && t.feedIe && t.trace == [.chip .tx .ok]) = true ∧
    ends (exec .wait fill) (fun t => t.gen == ⟨.idle, 0, true⟩ && t.buf == [(0, 4)] && t.dutyHigh == 5) = true := by decide

/-- N13, and N15 with T14 and T7. -/
theorem test_reset :
    ends (exec .reset (withGen fill .running 400 true)) (fun t =>
      t.gen == ⟨.resetPending, 0, false⟩ && t.buf == [(0, 399)]) = true ∧
    ends (exec .reset fill) (fun t => t.buf == [(0, 0)] && !t.feedIe && t.tstate == .asyncTx) = true ∧
    ends (exec .reset { fill with chipIn := [false] }) (fun t =>
      t.trace == [.chip .tx .timeout, .fault .chipTimeout] && t.tstate == .idle && t.txRun) = true := by decide

/-- N17. -/
theorem test_badReserved :
    ends (exec .badReserved (withGen fill .running 5 true)) (fun t =>
      t.fault && t.faultCode == .badEncoderEvent && t.trace == [.fault .badEncoderEvent] && t.buf == []) = true := by decide

/-- X7, X13, X14. -/
theorem test_edgeFall :
    ends (exec (.edgeFall 12) rx) (fun t =>
      t.ccr1 == 12 && t.delta == 12 && t.cnt == 12 && t.trace == [.cap true 12]) = true ∧
    ends (exec (.edgeFall 9) { rx with cnt := 90, params := { params4 with rxWrap := 100 } }) (fun t =>
      t.trace == [.cap true 99] && t.draws == 0) = true ∧
    ends (exec (.edgeFall 20) { rx with cnt := 90, params := { params4 with rxWrap := 100 } }) (fun t =>
      t.draws == 1 && t.trace.length == 1) = true := by decide

/-- X8, X12, X15, X16. -/
theorem test_edgeRise :
    ends (exec (.edgeRise 5) { rx with cnt := 12, delta := 12 }) (fun t =>
      t.ccr2 == 17 && t.cnt == 0 && t.delta == 12 && t.trace == [.cap false 5]) = true ∧
    ends (exec (.edgeRise 5) { rx with delta := 12 }) (fun t => t.trace == [.cap false 4294967289]) = true ∧
    ends (exec (.edgeRise 3) { rx with mirrorActive := true }) (fun t =>
      t.mirror && t.trace == [.mirror true, .cap false 3]) = true ∧
    ends (exec (.edgeRise 3) tx) (fun t => t == tx) = true := by decide

/-- S1: the durations 1, 2, 3, 1000. -/
theorem test_encReload :
    encReload 1 = 1 ∧ encReload 2 = 1 ∧ encReload 3 = 2 ∧ encReload 1000 = 999 ∧ encReload 0xFFFFFFFF = 0xFFFFFFFE := by
  decide

/-- The step runs a word of the opcode table first after reset: INIT, and UPDATE, whose turn passes. -/
theorem test_step_runs_the_placed_word :
    ends (step { base.withFetchWord 32 5 with chipIn := [true] }) (fun t => t.tstate == .idle) = true ∧
    ends (step (base.withFetchWord 8 1)) (fun t => t == base) = true := by decide

/-- H15: a host access waits for the fill, and a turn of the feeder behind it is taken. -/
theorem test_step_holds_the_host :
    ends (step { fill with agenda := [.fetch (.cmd 5), .turn .feeder], encIn := [⟨0b00#2, false, 8⟩] }) (fun t =>
      t.agenda == [.fetch (.cmd 5)] && t.encPos == 1 && t.tstate == .idle) = true := by decide

/-- P4's STATUS read after a rejected START_TX goes into the program's variable, and P2's first write reaches CFG. -/
theorem test_host_program :
    ends (step { idle with
        regmode := false, lastResult := .rejected, agenda := [.turn .host], hostProg := [.rd .status 0, .end_] }) (fun t =>
      t.hostVar 0 == 0x00002002 && t.hostPc == 1) = true ∧
    ends (step { base with agenda := [.turn .host], hostProg := [.wr .cfg 3] }) (fun t =>
      t.regmode && t.mirrorEn && t.hostPc == 1) = true := by decide

/-- An RD of CMD, and of BUF[4] with N = 4, raises BAD_ACCESS and leaves its variable as it was (60_exceptions R221). -/
theorem test_faulting_read_statement :
    ends (step { idle with
        rdata := 9, hostVars := [(0, 5)], agenda := [.turn .host], hostProg := [.rd .cmd 0] }) (fun t =>
      t.fault && t.faultCode == .badAccess && t.hostVars == [(0, 5)]) = true ∧
    ends (step { tx with rdata := 9, agenda := [.turn .host], hostProg := [.rd (.buf 4) 0] }) (fun t =>
      t.fault && t.hostVars == []) = true := by decide

/-- What counts as a step of the spec's: not a passed turn, at END or elsewhere; a computation of the host does
(70_reset_and_hazards R267). The end state of a program is final and makes none. -/
theorem test_progress :
    State.progresses { tx with agenda := [.turn .timerDma] } = true ∧
    State.progresses { idle with agenda := [.turn .timerDma] } = false ∧
    State.progresses { idle with agenda := [.turn .host], hostProg := [.end_] } = false ∧
    State.progresses { idle with agenda := [.turn .host], hostProg := [.bne 0 1 1 0] } = true ∧
    State.final { idle with hostProg := [.end_] } = true ∧ State.final { rx with hostProg := [.end_] } = true ∧
    State.final { tx with hostProg := [.end_] } = false ∧ State.final { idle with hostProg := [.bne 0 1 1 0] } = false := by
  decide

/-! ### Witnesses: the hypotheses of each statement hold together, clause by clause, at boundary values -/

/-- A state whose agenda offers an event label. -/
def offering (code : BitVec 4) : State := { idle with agenda := [.fetch (.event code 0)] }

theorem witness_DecodeEncodeRoundTrip :
    (Instr.rdBuf 255).wellFormed params4 = true ∧ (Instr.badAccess (.desc 0x1FFF#13 7)).wellFormed params4 = true ∧
    (Instr.badAccess (.store 0x40001000 [7, 0, 0, 0])).wellFormed params4 = true ∧ Instr.wait.wellFormed params4 = true := by
  decide

theorem witness_DecodedInstructionsAreWellFormed :
    decode params4 (.mmio (.desc 0x07FC#13 0)) = .ok (.rdBuf 255) ∧
    decode params4 (.mmio (.desc 0x0800#13 0)) = .ok (.badAccess (.desc 0x0800#13 0)) := by decide

theorem witness_UnusedEventCodesAreRefused :
    (offering 0x0).fault = false ∧ (offering 0x0).agenda = .fetch (.event 0x0 0) :: [] ∧ (0x0#4).toNat = 0 ∧
    6 ≤ (0x6#4).toNat ∧ 6 ≤ (0xF#4).toNat := by decide

theorem witness_EveryBadAccessFaults :
    base.hostReady ∧ base.params.wf ∧ (2 : Nat) ≠ 4 ∧ 0x40000006 % 4 ≠ 0 ∧ 0x3FFFFFFC < base.params.base ∧
    base.params.base + 0x1000 ≤ 0x40001000 ∧ ¬base.params.base + 0x004 ≤ 0x40000000 ∧
    ¬0x40000030 ≤ base.params.base + 0x02C ∧ ¬base.params.base + 0x400 ≤ 0x40000030 ∧
    ¬0x40000410 < base.params.base + 0x400 + 4 * base.params.n ∧ [(0 : Byte), 0].length ≠ 4 ∧
    0x40000004 ≠ base.params.base + 0x000 ∧ 0x40000004 ≠ base.params.base + 0x008 := by decide

theorem witness_BusAccessUsesItsDescriptor :
    params4.wf ∧ 0xFFC < 0x1000 ∧ 0xFFC % 4 = 0 ∧ 0x000 < 0x1000 ∧ 0x000 % 4 = 0 ∧ 3 < 4 ∧
    [0x01#8, 0x02#8, 0x03#8, 0x04#8] =
      [(0x04030201#32).extractLsb' 0 8, (0x04030201#32).extractLsb' 8 8, (0x04030201#32).extractLsb' 16 8,
        (0x04030201#32).extractLsb' 24 8] := by decide

/-- A packet, a packet while the feeder runs, and the turns of the other agents. -/
theorem witness_StepRunsTheAgendaPacket :
    (offering 0x1).fault = false ∧ (offering 0x1).busy = false ∧ decode params4 (.event 0x1 0) = .ok .update ∧
    fill.fault = false ∧ fill.busy = true ∧ packetIsHost (.event 0x3 0) = false ∧
    decode params4 (.event 0x3 0) = .ok .pull ∧
    { fill with agenda := [.turn .timerDma] }.agenda = .turn .timerDma :: [] ∧
    { fill with agenda := [.turn .feeder] }.agenda = .turn .feeder :: [] ∧
    { rx with agenda := [.turn (.fall 3)] }.agenda = .turn (.fall 3) :: [] ∧
    { rx with agenda := [.turn (.rise 3)] }.agenda = .turn (.rise 3) :: [] ∧ idle.agenda = [] ∧ idle.busy = false ∧
    fill.agenda = [] := by decide

/-- A state whose host is at statement `st`, with a turn of the HOST first. -/
def hosting (st : HostStmt) : State := { idle with agenda := [.turn .host], hostProg := [st] }

/-- The turns of the HOST: a write, a read that returns a value, one that faults, both branches, END and past it. -/
theorem witness_StepRunsTheAgendaPacket_host :
    (hosting .end_).busy = false ∧ (hosting .end_).agenda = .turn .host :: [] ∧
    (hosting (.wr .cfg 3)).hostProg[0]? = some (.wr .cfg 3) ∧
    decode params4 (.mmio (.store 0x40000008 [3, 0, 0, 0])) = .ok (.wrCfg 3) ∧
    decode params4 (.mmio (.load 0x40000004 4)) = .ok .rdStatus ∧
    ends (exec .rdStatus { hosting (.rd .status 0) with agenda := [], hostPc := 1 }) (fun t => !t.fault) = true ∧
    decode params4 (.mmio (.load 0x40000410 4)) = .ok (.rdBuf 4) ∧
    ends (exec (.rdBuf 4) { hosting (.rd (.buf 4) 0) with agenda := [], hostPc := 1 }) (fun t => t.fault) = true ∧
    (hosting (.bne 0 1 1 7)).hostProg[0]? = some (.bne 0 1 1 7) ∧
    (hosting (.beq 0 1 1 7)).hostProg[0]? = some (.beq 0 1 1 7) ∧ (hosting .end_).hostProg[0]? = some .end_ ∧
    { hosting .end_ with hostPc := 1 }.hostProg[1]? = none := by decide

theorem witness_NoStepAfterAFault : { idle with fault := true, faultCode := .chipTimeout }.fault = true := by decide

theorem witness_BusyHostAccessKeepsItsPlace :
    fill.busy = true ∧ slotIsHost (.fetch (.cmd 5)) = true ∧ slotIsHost (.turn .host) = true ∧
    ends (step { fill with agenda := [.fetch (.cmd 5), .turn .timerDma] }) (fun t => t.agenda == [.fetch (.cmd 5)]) =
      true ∧
    ends (step { fill with agenda := [.turn .host, .turn .timerDma] }) (fun t => t.agenda == [.turn .host]) = true := by
  decide

theorem witness_PipelineInvariantKept :
    fill.params.wf ∧ fill.fault = false ∧ fill.pipelineInv ∧ refill.pipelineInv ∧
    ends (step { fill with agenda := [.fetch (.encoder ⟨0b10#2, false, 0⟩)] }) (fun t => !t.fault && t.txRun) = true := by
  decide

theorem witness_BufferInvariantKept :
    refill.pipelineInv ∧ refill.bufferInv ∧
    ends (step { refill with agenda := [.fetch (.encoder ⟨0b01#2, false, 0⟩)] }) (fun t => t.buf != refill.buf) = true := by
  decide

theorem witness_RefillRaceInvariantKept :
    tx.params.wf ∧ { tx with dmaIdx := 1 }.dmaIdx < tx.params.n ∧ { tx with dmaIdx := 1 }.raceInv ∧
    ends (step { tx with dmaIdx := 1, agenda := [.turn .timerDma] }) (fun t => t.htPend) = true := by decide

theorem witness_RefilledHalfIsNotTransferred :
    { refill with dmaIdx := 2 }.dmaIdx < refill.params.n ∧ { refill with dmaIdx := 2 }.raceInv ∧
    refill.fillActive = true ∧ refill.fillKind = .refill ∧
    ends (exec .update { refill with dmaIdx := 2 }) (fun t => t.dmaIdx == 3) = true ∧ refill.raceInv ∧
    ends (exec .update refill) (fun t => t == refill) = true := by decide

theorem witness_ParametersStayAndTraceGrows :
    ends (step { tx with agenda := [.turn .timerDma] }) (fun t => t.trace.length == 1) = true := by decide

theorem witness_OnlyTheseInstructionsWriteTstate :
    ends (exec .init { base with chipIn := [true] }) (fun t => t.tstate == .idle) = true ∧
    ends (exec (.wrCmd 5) { base with chipIn := [false] }) (fun t => t.tstate == .faulty) = true ∧
    ends (exec .reset fill) (fun t => t.tstate == .asyncTx) = true ∧
    ends (exec (.wrCmd 2) tx) (fun t => t.tstate == .idle) = true ∧
    ends (exec (.wrCmd 3) idle) (fun t => t.tstate == .asyncRx) = true ∧
    ends (exec (.wrCmd 4) rx) (fun t => t.tstate == .idle) = true := by decide

theorem witness_TransmitAndReceiveStateAreSeparate :
    ends (exec .update tx) (fun t => t.out) = true ∧ ends (exec .refillBegin { tx with htPend := true }) (fun t => t.busy) = true ∧
    instrIsPull .wait = true ∧ ends (exec .wait fill) (fun t => t.mwPol) = true ∧
    instrIsEdge (.edgeFall 3) = true ∧ ends (exec (.edgeFall 3) rx) (fun t => t.ccr1 == 3) = true := by decide

theorem witness_OnlyTheFeederWritesTheBuffer :
    ends (exec .update tx) (fun t => t.buf == tx.buf) = true ∧ Instr.update ≠ .startTx ∧ Instr.update ≠ .wrCmd 1 ∧
    instrIsPull .wait = true ∧ (1 : Nat) ≠ fill.fillPos ∧ ends (exec .wait fill) (fun t => t.buf == [(0, 4)]) = true := by
  decide

theorem witness_HostReadsWriteNoBlockState :
    base.hostReady ∧ instrIsRead params4 .rdCnt = true ∧ instrIsRead params4 (.rdBuf 3) = true ∧
    instrIsRead params4 .rdStatus = true := by decide

theorem witness_StatusReadFields : tx.hostReady := by decide

theorem witness_CompletionQueryValue : { tx with arr := 0 }.hostReady := by decide

theorem witness_CfgReadsBackWhatWasWritten : base.hostReady := by decide

theorem witness_TimerReads :
    tx.hostReady ∧ tx.params.wf ∧ { tx with dmaIdx := 3 }.dmaIdx < tx.params.n ∧ tx.tstate = .asyncTx ∧
    base.hostReady ∧ base.params.wf ∧ base.dmaIdx < base.params.n ∧ base.tstate ≠ .asyncTx := by decide

theorem witness_DutyAndAccumulatorReads : base.hostReady := by decide

theorem witness_CaptureReads : rx.hostReady ∧ rx.tstate = .asyncRx ∧ base.hostReady ∧ base.tstate ≠ .asyncRx := by decide

theorem witness_BufReads :
    tx.hostReady ∧ 3 < tx.params.n ∧ tx.tstate = .asyncTx ∧ Memory.read tx.buf 3 = some 7 ∧
    Memory.read { tx with buf := [(0, 2)] }.buf 3 = none ∧ base.hostReady ∧ base.tstate ≠ .asyncTx ∧
    tx.params.n ≤ 4 := by decide

theorem witness_WrCmdPerformsTheCommand :
    base.hostReady ∧ 1 ≤ (1#32).toNat ∧ (5#32).toNat ≤ 5 ∧ decode base.params (.cmd 5) = .ok .init ∧
    (0#32).toNat = 0 ∧ 6 ≤ (6#32).toNat ∧ 6 ≤ (0xFFFFFFFF#32).toNat := by decide

theorem witness_StartTxRejected :
    base.hostReady ∧ base.tstate ≠ .idle ∧ { idle with regmode := false }.hostReady ∧
    { idle with regmode := false }.regmode = false := by decide

theorem witness_StartTxBeginsThePrefill : idle.hostReady ∧ idle.tstate = .idle ∧ idle.regmode = true := by decide

theorem witness_StopTxOutcomes :
    tx.hostReady ∧ tx.tstate = .asyncTx ∧ tx.chipGood = true ∧ { tx with chipIn := [false] }.chipGood = false ∧
    idle.hostReady ∧ idle.tstate ≠ .asyncTx := by decide

theorem witness_StartRxOutcomes :
    idle.hostReady ∧ idle.tstate = .idle ∧ idle.chipGood = true ∧ { idle with chipIn := [false] }.chipGood = false ∧
    tx.hostReady ∧ tx.tstate ≠ .idle := by decide

theorem witness_StopRxOutcomes :
    rx.hostReady ∧ rx.tstate = .asyncRx ∧ rx.chipGood = true ∧ { rx with chipIn := [false] }.chipGood = false ∧
    idle.hostReady ∧ idle.tstate ≠ .asyncRx := by decide

theorem witness_InitOutcomes :
    rx.hostReady ∧ rx.tstate = .asyncRx ∧ tx.hostReady ∧ tx.tstate = .asyncTx ∧
    base.hostReady ∧ base.tstate ≠ .asyncRx ∧ base.tstate ≠ .asyncTx := by decide

theorem witness_UpdateTransfersAWord :
    tx.fault = false ∧ tx.tstate = .asyncTx ∧ tx.txRun = true ∧ tx.arr ≠ 0 ∧ tx.needsRefill = false ∧
    Memory.read tx.buf tx.dmaIdx = some 2 ∧ true = (if (2 : Word) = 0 then false else !tx.out) := by decide

theorem witness_UpdateOfAnUnwrittenWord :
    tx.fault = false ∧ tx.tstate = .asyncTx ∧ tx.txRun = true ∧ tx.arr ≠ 0 ∧ { tx with buf := [] }.needsRefill = false ∧
    Memory.read { tx with buf := [] }.buf tx.dmaIdx = none := by decide

/-- The two places a refill can be late: half 0 requested, and half 1 being filled. -/
theorem witness_UpdateUnderrunFaults :
    tx.fault = false ∧ tx.tstate = .asyncTx ∧ tx.txRun = true ∧ tx.arr ≠ 0 ∧
    { params4 with policy := .fault }.policy = .fault ∧ tx.dmaIdx = 0 ∧ { tx with htPend := true }.htPend = true ∧
    { refill with dmaIdx := 2, fillHalf := .second }.dmaIdx = refill.params.half ∧ refill.fillActive = true ∧
    refill.fillKind = .refill ∧ { refill with dmaIdx := 2, fillHalf := .second }.fillHalf = .second := by decide

theorem witness_DisabledStepsLeaveTheState :
    fill.fault = false ∧ fill.busy = true ∧ instrIsHost .rdStatus = true ∧ idle.fault = false ∧ idle.tstate ≠ .asyncTx ∧
    { tx with arr := 0 }.arr = 0 ∧ tx.params.policy = .hold ∧ tx.dmaIdx = 0 ∧ { tx with htPend := true }.htPend = true ∧
    { tx with dmaIdx := 2 }.dmaIdx = tx.params.half ∧ { tx with dmaIdx := 2, tcPend := true }.tcPend = true ∧
    tx.htPend = false ∧ tx.tcPend = false ∧ idle.fillActive = false ∧ instrIsPull .pull = true ∧
    (withGen fill .resetPending 0 false).fillActive = true ∧
    (withGen fill .resetPending 0 false).mwState = .resetPending ∧ instrIsPull .badReserved = true ∧
    Instr.badReserved ≠ .pull := by decide

theorem witness_RefillBeginTakesTheDueHalf :
    tx.fault = false ∧ tx.tstate = .asyncTx ∧ tx.fillActive = false ∧ { tx with htPend := true }.htPend = true ∧
    { tx with htPend := true, tcPend := true, dmaIdx := 1 }.dmaIdx < tx.params.half ∧
    ¬{ tx with htPend := true, tcPend := true, dmaIdx := 2 }.dmaIdx < tx.params.half := by decide

theorem witness_PullTakesTheNextEvent :
    fill.mwState ≠ .resetPending ∧
    { fill with encIn := [⟨0b01#2, false, 0⟩] }.encIn.headD (Config.encoder fill.encPos) = ⟨0b01#2, false, 0⟩ := by decide

theorem witness_PullWithResetPendingEndsTheRefill :
    refill.fault = false ∧ refill.fillActive = true ∧ refill.fillKind = .refill ∧
    (withGen refill .resetPending 0 false).mwState = .resetPending := by decide

theorem witness_LevelCollectsARun :
    fill.fault = false ∧ fill.fillActive = true ∧ fill.mwState = .idle ∧ false = fill.mwPol ∧ true ≠ fill.mwPol ∧
    (withGen fill .running 300 true).mwState = .running ∧ true = (withGen fill .running 300 true).mwPol := by decide

theorem witness_LevelChangeEmitsTheRun :
    fill.fault = false ∧ fill.fillActive = true ∧ (withGen fill .running 1 true).mwState = .running ∧
    false ≠ (withGen fill .running 1 true).mwPol ∧ (withGen fill .running 1 true).mwAcc ≠ 0 ∧
    fill.fillPos + 1 ≠ fill.fillEnd := by decide

theorem witness_WaitEmitsTheGuardedRun :
    fill.fault = false ∧ fill.fillActive = true ∧ fill.mwState ≠ .resetPending ∧
    (5 : Word) = fill.mwAcc + fill.params.guardTime ∧ (5 : Word) ≠ 0 ∧ fill.fillPos + 1 ≠ fill.fillEnd := by decide

theorem witness_ResetFlushesTheRun :
    (withGen fill .running 60 false).fault = false ∧ (withGen fill .running 60 false).fillActive = true ∧
    (withGen fill .running 60 false).mwState ≠ .resetPending ∧ (withGen fill .running 60 false).mwAcc ≠ 0 ∧
    fill.fillPos + 1 ≠ fill.fillEnd := by decide

/-- The three events that emit a run: a level change in Running, a wait and a reset. -/
theorem emits_level (s : State) (m : MwState) (a d : Word) (h : m = .running) :
    (withGen s m a true).emitsBy (.level false d) a ⟨.running, d, false⟩ :=
  .inl ⟨false, d, rfl, h, by simp [withGen], rfl, rfl⟩

theorem emits_wait (s : State) (a : Word) (p : Level) :
    (withGen s .running a p).emitsBy .wait (a + s.params.guardTime) ⟨.running, 0, !p⟩ :=
  .inr (.inl ⟨rfl, by simp [withGen], rfl, rfl⟩)

theorem emits_reset (s : State) (a : Word) (p : Level) :
    (withGen s .running a p).emitsBy .reset a ⟨.resetPending, 0, false⟩ :=
  .inr (.inr ⟨rfl, by simp [withGen], rfl, rfl⟩)

/-- A level change after a zero-length run, a wait whose sum wraps to 0, and a reset with nothing collected. -/
theorem witness_ZeroRunWritesTheTerminator :
    refill.fault = false ∧ refill.fillActive = true ∧ refill.fillKind = .refill ∧
    (withGen refill .running 0 true).emitsBy (.level false 7) 0 ⟨.running, 7, false⟩ ∧
    (withGen refill .running 0xFFFFFFFB true).emitsBy .wait 0 ⟨.running, 0, false⟩ ∧
    (withGen refill .running 0 true).emitsBy .reset 0 ⟨.resetPending, 0, false⟩ :=
  ⟨rfl, rfl, rfl, emits_level _ _ _ _ rfl, emits_wait _ _ _, emits_reset _ _ _⟩

theorem witness_LastWordEndsTheRefill :
    refill.fault = false ∧ refill.fillActive = true ∧ refill.fillKind = .refill ∧
    { refill with fillPos := 1 }.fillPos + 1 = refill.fillEnd ∧ (30 : Word) ≠ 0 ∧
    (withGen { refill with fillPos := 1 } .running 30 true).emitsBy (.level false 7) 30 ⟨.running, 7, false⟩ ∧
    (withGen { refill with fillPos := 1 } .running 30 true).emitsBy .wait 35 ⟨.running, 0, false⟩ ∧
    (withGen { refill with fillPos := 1 } .running 30 true).emitsBy .reset 30 ⟨.resetPending, 0, false⟩ :=
  ⟨rfl, rfl, rfl, rfl, by decide, emits_level _ _ _ _ rfl, emits_wait _ _ _, emits_reset _ _ _⟩

theorem witness_EndOfPrefillArmsTheTimer :
    instrIsPull .reset = true ∧ fill.fillActive = true ∧ fill.fillKind = .prefill ∧
    ends (exec .reset fill) (fun t => !t.fillActive) = true ∧ fill.chipGood = true ∧
    ends (exec .reset { fill with chipIn := [false] }) (fun t => !t.fillActive) = true ∧
    { fill with chipIn := [false] }.chipGood = false := by decide

/-- At the last word of the range and before it, with a run and with a terminator, by each event; and with a reset
pending. -/
theorem witness_PullEndsThePrefillAtItsLastWord :
    fill.fault = false ∧ fill.fillActive = true ∧ fill.fillKind = .prefill ∧
    { fill with fillPos := 3 }.fillPos + 1 = fill.fillEnd ∧ fill.fillPos + 1 ≠ fill.fillEnd ∧
    (withGen { fill with fillPos := 3 } .running 3 true).emitsBy (.level false 7) 3 ⟨.running, 7, false⟩ ∧
    (withGen { fill with fillPos := 3 } .running 3 true).emitsBy .wait 8 ⟨.running, 0, false⟩ ∧
    (withGen { fill with fillPos := 3 } .running 3 true).emitsBy .reset 3 ⟨.resetPending, 0, false⟩ ∧
    (withGen fill .running 0 true).emitsBy (.level false 7) 0 ⟨.running, 7, false⟩ ∧
    (withGen fill .running 0xFFFFFFFB true).emitsBy .wait 0 ⟨.running, 0, false⟩ ∧
    (withGen fill .running 0 true).emitsBy .reset 0 ⟨.resetPending, 0, false⟩ ∧
    (withGen fill .resetPending 0 false).mwState = .resetPending :=
  ⟨rfl, rfl, rfl, rfl, by decide, emits_level _ _ _ _ rfl, emits_wait _ _ _, emits_reset _ _ _,
    emits_level _ _ _ _ rfl, emits_wait _ _ _, emits_reset _ _ _, rfl⟩

theorem witness_ReservedEventFaults :
    fill.fault = false ∧ fill.fillActive = true ∧ fill.mwState ≠ .resetPending := by decide

theorem witness_ReloadEncoding :
    (0 : Word) = 0 ∧ (1 : Word) = 1 ∧ (1 : Word) ≠ 0 ∧ 2 ≤ (2 : Word).toNat ∧ 2 ≤ (0xFFFFFFFF : Word).toNat := by decide

theorem witness_EmissionsAlternateInLevel :
    Gen.delta ⟨.running, 500, true⟩ 5 ⟨0b00#2, false, 250⟩ = .emit 500 ⟨.running, 250, false⟩ ∧
    Gen.delta ⟨.idle, 0, false⟩ 5 ⟨0b01#2, false, 0⟩ = .emit 5 ⟨.idle, 0, true⟩ ∧
    Gen.delta ⟨.running, 60, false⟩ 5 ⟨0b10#2, false, 0⟩ = .emit 60 ⟨.resetPending, 0, false⟩ ∧
    Gen.delta ⟨.resetPending, 0, false⟩ 5 ⟨0b11#2, false, 0⟩ = .emit 0 ⟨.resetPending, 0, false⟩ := by decide

theorem witness_EdgeFallCaptures :
    rx.fault = false ∧ rx.tstate = .asyncRx ∧ rx.cnt.toNat + (0xFFFFFFFF : Word).toNat < rx.params.rxWrap := by decide

theorem witness_EdgeRiseCaptures :
    rx.fault = false ∧ rx.tstate = .asyncRx ∧ rx.cnt.toNat + (0 : Word).toNat < rx.params.rxWrap := by decide

theorem witness_WrappedCaptureStaysBelowThePeriod :
    rx.fault = false ∧ rx.params.wf ∧ rx.tstate = .asyncRx ∧
    rx.params.rxWrap ≤ { rx with cnt := 1 }.cnt.toNat + (0xFFFFFFFF : Word).toNat := by decide

theorem witness_EdgesOutsideReceiveChangeNothing :
    idle.fault = false ∧ idle.tstate ≠ .asyncRx ∧ tx.fault = false ∧ tx.tstate ≠ .asyncRx := by decide

theorem witness_AlternatingEdgesReportElapsedTicks :
    rx.fault = false ∧ rx.params.wf ∧ rx.tstate = .asyncRx ∧
    rx.cnt.toNat + (12 : Word).toNat + (5 : Word).toNat < rx.params.rxWrap ∧ (9 : Word).toNat < rx.params.rxWrap := by decide

theorem witness_DutyPercentage :
    (0 : Word).toNat + (0 : Word).toNat = 0 ∧ (7 : Word).toNat + (2 : Word).toNat ≠ 0 ∧ (200 : Word) ≠ 0 := by decide

theorem witness_HeldUpdateHasAnEnabledFeeder :
    tx.fault = false ∧ tx.tstate = .asyncTx ∧ tx.txRun = true ∧ tx.arr ≠ 0 ∧ tx.params.policy = .hold ∧
    { tx with htPend := true }.needsRefill = true ∧ refill.needsRefill = true := by decide

theorem witness_QuietAfterStop :
    tx.hostReady ∧ ends (exec .stopTx tx) (fun t => !t.fault) = true := by decide

end Sys2Proof.Tests
end

section
/-! PROOFS. The statements of spec/00_scope.md: reset, what every step keeps, and what one step of the machine runs. -/

namespace Sys2Proof.Machine

/-! ### What every step keeps -/

/-- Settles O16: a fetch and the host's variables touch neither field, and every instruction carries both. -/
theorem parametersStayAndTraceGrows : Obligations.ParametersStayAndTraceGrows := by
  intro s t h
  refine step_keeps (P := fun u => u.params = s.params ∧ ∃ rs, u.trace = s.trace ++ rs) ?_ ?_ ?_ h
    ⟨rfl, [], by simp⟩
  · intro u v huv hu
    rw [huv.eq]
    exact hu
  · intro u x w hu
    exact hu
  · rintro i u v - ⟨hp, rs, hr⟩ hexec
    have hc := exec_carries hexec
    obtain ⟨qs, hq⟩ := hc.trace
    exact ⟨hc.params.trans hp, rs ++ qs, by rw [hq, hr, List.append_assoc]⟩

/-! ### Reset -/

/-- The OPEN parameters lie in the ranges of 00_scope R8, because their constants are bounded by their types. -/
theorem params_wf : Config.params.wf := by
  have hhalf := Config.halfLessOne.isLt
  have hlead := Config.leadLessOne.isLt
  have hwrap := Config.rxWrapLessTwo.isLt
  have hlead0 : BitVec.ofNat 32 (Config.leadLessOne.val + 1) ≠ 0 := by bv_omega
  refine ⟨?_, ?_, hlead0, ?_, ?_, ?_⟩ <;> simp only [Config.params] <;> omega

/-- At reset nothing runs and nothing is pending (10_state R53), so only the range of the DMA index is not immediate. -/
theorem reset_pipelineInv : State.reset.pipelineInv := by
  have hn : 0 < Config.params.n := by
    have := params_wf.1
    simp only [Params.n]
    omega
  exact ⟨hn, by simp [State.reset, State.halted]⟩

/-- No half is dirty at reset. -/
theorem reset_not_dirty (h : Half) : State.reset.dirty h = false := by
  cases h <;> rfl

/-- Settles O2. -/
theorem resetMeetsTheInvariants : Obligations.ResetMeetsTheInvariants := by
  refine ⟨params_wf, reset_pipelineInv, ⟨State.reset_buf_wf, ?_⟩, ?_⟩
  · simp [State.reset]
  · simp [State.raceInv, reset_not_dirty]

/-! ### The step as its fetch says -/

@[simp] theorem latchRead_none (o : Host.Outcome State Fault Refusal) : latchRead none o = o := by
  cases o <;> rfl

/-- What a read statement does with an answered access: its variable takes the value, unless a fault was raised. -/
theorem latchRead_some_next (x : Nat) (t : State) :
    latchRead (some x) (.next t) = .next (if t.fault then t else t.setHostVar x t.rdata) := by
  simp [latchRead, State.readBytes]

theorem step_of_run {s t : State} {i : Instr} {var : Option Nat} (hf : s.fault = false)
    (h : fetch s = .run i t var) : step s = latchRead var (exec i t) := by
  simp [step, stepOnce, hf, h]

theorem step_of_compute {s t : State} (hf : s.fault = false) (h : fetch s = .compute t) : step s = .next t := by
  simp [step, stepOnce, hf, h]

theorem step_of_pass {s t : State} (hf : s.fault = false) (h : fetch s = .pass t) : step s = .next t := by
  simp [step, stepOnce, hf, h]

/-- Without a fault, a step depends on its state only through what is fetched. -/
theorem step_congr_fetch {s t : State} (hs : s.fault = false) (ht : t.fault = false) (h : fetch s = fetch t) :
    step s = step t := by
  simp [step, stepOnce, hs, ht, h]

/-! ### Fetching, by the first slot -/

theorem fetch_of_packet_head {s : State} {k : Packet} {rest : List Slot} (ha : s.agenda = .fetch k :: rest)
    (hb : s.busy = true → packetIsHost k = false) : fetch s = fetchPacket k none { s with agenda := rest } := by
  simp only [fetch, ha, takeReady_head (x := .fetch k) rest hb]

theorem fetch_of_turn_head {s : State} {t : Turn} {rest : List Slot} (ha : s.agenda = .turn t :: rest)
    (hb : s.busy = true → slotIsHost (.turn t) = false) : fetch s = fetchTurn t { s with agenda := rest } := by
  simp only [fetch, ha, takeReady_head rest hb]

theorem fetch_of_agenda_nil {s : State} (ha : s.agenda = []) :
    fetch s = fetchTurn (Config.schedule s.turns) { s with turns := s.turns + 1 } := by
  simp only [fetch, ha, takeReady]

theorem fetchPacket_of_decode {s : State} {p : Packet} {i : Instr} (var : Option Nat) (h : decode s.params p = .ok i) :
    fetchPacket p var s = .run i s var := by
  simp [fetchPacket, h]

theorem fetchTurn_host_ready {s : State} (hb : s.busy = false) : fetchTurn .host s = hostStatement s := by
  simp [fetchTurn, hb]

theorem fetchTurn_host_busy {s : State} (hb : s.busy = true) : fetchTurn .host s = .pass s := by
  simp [fetchTurn, hb]

/-- A turn other than the HOST's is no HOST slot. -/
theorem slotIsHost_turn_of_ne {t : Turn} (h : t ≠ .host) : slotIsHost (.turn t) = false := by
  cases t
  case host => exact absurd rfl h
  all_goals rfl

/-! ### A turn of the HOST while the feeder does not run -/

section HostTurn

variable {s : State} {rest : List Slot} (hf : s.fault = false) (hb : s.busy = false)
  (ha : s.agenda = .turn .host :: rest)

include hb ha in
theorem fetch_of_host_turn : fetch s = hostStatement { s with agenda := rest } := by
  rw [fetch_of_turn_head ha (by simp [hb]), fetchTurn_host_ready (s := { s with agenda := rest }) hb]

include hf hb ha

theorem step_host_wr {r : Reg} {v : Word} {i : Instr} (hp : s.hostProg[s.hostPc]? = some (.wr r v))
    (hd : decode s.params (.mmio (.store (s.params.base + r.offset) (busBytes v))) = .ok i) :
    step s = exec i { s with agenda := rest, hostPc := s.hostPc + 1 } := by
  have hfetch : fetch s = .run i { s with agenda := rest, hostPc := s.hostPc + 1 } none := by
    rw [fetch_of_host_turn hb ha]
    simp only [hostStatement, hp]
    exact fetchPacket_of_decode none hd
  rw [step_of_run hf hfetch, latchRead_none]

theorem step_host_rd {r : Reg} {x : Nat} {i : Instr} (hp : s.hostProg[s.hostPc]? = some (.rd r x))
    (hd : decode s.params (.mmio (.load (s.params.base + r.offset) 4)) = .ok i) :
    step s = latchRead (some x) (exec i { s with agenda := rest, hostPc := s.hostPc + 1 }) := by
  refine step_of_run hf ?_
  rw [fetch_of_host_turn hb ha]
  simp only [hostStatement, hp]
  exact fetchPacket_of_decode (some x) hd

theorem step_host_bne {x l : Nat} {m v : Word} (hp : s.hostProg[s.hostPc]? = some (.bne x m v l)) :
    step s = .next { s with agenda := rest, hostPc := if s.hostVar x &&& m ≠ v then l else s.hostPc + 1 } := by
  refine step_of_compute hf ?_
  rw [fetch_of_host_turn hb ha]
  simp only [hostStatement, hp, ite_not]
  rfl

theorem step_host_beq {x l : Nat} {m v : Word} (hp : s.hostProg[s.hostPc]? = some (.beq x m v l)) :
    step s = .next { s with agenda := rest, hostPc := if s.hostVar x &&& m = v then l else s.hostPc + 1 } := by
  refine step_of_compute hf ?_
  rw [fetch_of_host_turn hb ha]
  simp only [hostStatement, hp]
  rfl

theorem step_host_end (hp : s.hostProg[s.hostPc]? = some .end_ ∨ s.hostProg[s.hostPc]? = none) :
    step s = .next { s with agenda := rest } := by
  refine step_of_pass hf ?_
  rw [fetch_of_host_turn hb ha]
  rcases hp with hp | hp <;> simp only [hostStatement, hp]

end HostTurn

/-- What the host sees after a read statement: no change where the access raised a fault, and otherwise only the
statement's variable is new, with the value read (log 22). -/
theorem latchRead_some_spec (x : Nat) (t : State) :
    ∃ u, latchRead (some x) (.next t) = .next u ∧ (t.fault = true → u = t) ∧
      (t.fault = false → u = { t with hostVars := u.hostVars } ∧ u.hostVar x = t.rdata ∧
        ∀ y, y ≠ x → u.hostVar y = t.hostVar y) := by
  have hnext := latchRead_some_next x t
  by_cases ht : t.fault = true
  · rw [if_pos ht] at hnext
    exact ⟨_, hnext, fun _ => rfl, fun h => absurd ht (by simp [h])⟩
  · rw [if_neg ht] at hnext
    exact ⟨_, hnext, fun h => absurd h ht, fun _ =>
      ⟨rfl, t.hostVar_setHostVar x t.rdata, fun y hy => t.hostVar_setHostVar_other t.rdata hy⟩⟩

/-! ### A turn of another agent, and of the schedule -/

/-- A turn of TIMER_DMA, of the FEEDER or of ENV runs the instruction its fetch gives, on the state without the slot. -/
theorem step_of_agent_turn {s : State} {t : Turn} {rest : List Slot} {i : Instr} (hf : s.fault = false)
    (ha : s.agenda = .turn t :: rest) (ht : t ≠ .host)
    (hi : fetchTurn t { s with agenda := rest } = .run i { s with agenda := rest } none) :
    step s = exec i { s with agenda := rest } := by
  rw [step_of_run hf ((fetch_of_turn_head ha fun _ => slotIsHost_turn_of_ne ht).trans hi), latchRead_none]

/-- With no slot left, the step is the one of an agenda that holds only the schedule's turn; a turn of the HOST passes
while the feeder runs. -/
theorem step_of_agenda_nil {s : State} (hf : s.fault = false) (ha : s.agenda = []) :
    step s = if s.busy = true ∧ Config.schedule s.turns = .host then .next { s with turns := s.turns + 1 }
      else step { s with agenda := [.turn (Config.schedule s.turns)], turns := s.turns + 1 } := by
  have hfetch := fetch_of_agenda_nil ha
  split
  case isTrue h =>
    obtain ⟨hb, ht⟩ := h
    rw [ht, fetchTurn_host_busy (s := { s with turns := s.turns + 1 }) hb] at hfetch
    exact step_of_pass hf hfetch
  case isFalse h =>
    have hhead := fetch_of_turn_head (s := { s with agenda := [.turn (Config.schedule s.turns)], turns := s.turns + 1 })
      rfl fun hb => slotIsHost_turn_of_ne fun ht => h ⟨hb, ht⟩
    rw [ha] at hfetch
    exact step_congr_fetch hf hf (hfetch.trans hhead.symm)

/-- Settles O9, clause by clause: the fetch of each kind of first slot, and the step that fetch gives. -/
theorem stepRunsTheAgendaPacket : Obligations.StepRunsTheAgendaPacket := by
  intro s hf
  refine ⟨?packet, ?timer, ?feeder, ?fall, ?rise, ?host, step_of_agenda_nil hf⟩
  case packet =>
    intro k rest i ha hb hd
    rw [step_of_run hf ((fetch_of_packet_head ha hb).trans (fetchPacket_of_decode none hd)), latchRead_none]
  case timer => exact fun rest ha => step_of_agent_turn hf ha nofun rfl
  case feeder => exact fun rest ha => step_of_agent_turn hf ha nofun rfl
  case fall => exact fun rest k ha => step_of_agent_turn hf ha nofun rfl
  case rise => exact fun rest k ha => step_of_agent_turn hf ha nofun rfl
  case host =>
    intro rest hb ha
    refine ⟨fun r v i => step_host_wr hf hb ha, ?_, fun x m v l => step_host_bne hf hb ha,
      fun x m v l => step_host_beq hf hb ha, step_host_end hf hb ha⟩
    intro r x i t hp hd hexec
    rw [step_host_rd hf hb ha hp hd, hexec]
    exact latchRead_some_spec x t

end Sys2Proof.Machine
end

section
/-! PROOFS. The statements of spec/10_state.md: the values at reset, who writes `tstate` and the reload buffer, and the
invariants of the transmit pipeline. All three rest on one inversion of `exec`, `exec_pipelineStep`. -/

namespace Sys2Proof.Machine

/-! ### Reset -/

/-- Settles O1: each clause is a field of `State.reset`. -/
theorem resetStateValues : Obligations.ResetStateValues := by
  unfold Obligations.ResetStateValues
  and_intros <;> rfl

/-! ### Updates that leave the pipeline alone -/

/-- The update leaves alone the transceiver state, the reload buffer, the timer, the requests and the fill: whatever the
invariants of R54 read. A raise is such an update. -/
structure State.KeepsPipeline (s t : State) : Prop where
  eq : t = { s with
    regmode := t.regmode, mirrorEn := t.mirrorEn, lastResult := t.lastResult, fault := t.fault,
    faultCode := t.faultCode, mwState := t.mwState, mwAcc := t.mwAcc, mwPol := t.mwPol, mirror := t.mirror,
    cnt := t.cnt, delta := t.delta, ccr1 := t.ccr1, ccr2 := t.ccr2, encPos := t.encPos, trace := t.trace,
    encIn := t.encIn, chipIn := t.chipIn, chips := t.chips, draws := t.draws, rdata := t.rdata }

namespace State.KeepsPipeline

variable {s t u : State}

theorem refl (s : State) : s.KeepsPipeline s := ⟨rfl⟩

theorem trans (h : s.KeepsPipeline t) (g : t.KeepsPipeline u) : s.KeepsPipeline u :=
  ⟨by
    have hu := g.eq
    rw [h.eq] at hu
    exact hu⟩

theorem params (h : s.KeepsPipeline t) : t.params = s.params := by rw [h.eq]
theorem tstate (h : s.KeepsPipeline t) : t.tstate = s.tstate := by rw [h.eq]
theorem buf (h : s.KeepsPipeline t) : t.buf = s.buf := by rw [h.eq]
theorem fillActive (h : s.KeepsPipeline t) : t.fillActive = s.fillActive := by rw [h.eq]
theorem fillPos (h : s.KeepsPipeline t) : t.fillPos = s.fillPos := by rw [h.eq]
theorem fillKind (h : s.KeepsPipeline t) : t.fillKind = s.fillKind := by rw [h.eq]

theorem pipelineInv (h : s.KeepsPipeline t) (hinv : s.pipelineInv) : t.pipelineInv := by
  rw [h.eq]
  exact hinv

end State.KeepsPipeline

theorem State.keepsPipeline_raise (s : State) (c : FaultCode) : s.KeepsPipeline (s.raise c) := by
  unfold State.raise
  split <;> exact ⟨rfl⟩

theorem State.keepsPipeline_driveMirror (s : State) (l : Level) : s.KeepsPipeline (s.driveMirror l) := by
  unfold State.driveMirror
  split <;> exact ⟨rfl⟩

theorem State.keepsPipeline_afterCapture (s : State) (k : Word) : s.KeepsPipeline (s.afterCapture k) := by
  unfold State.afterCapture
  split <;> exact ⟨rfl⟩

theorem State.keepsPipeline_answerOrDraw (s : State) (d : Bool) (v : Word) : s.KeepsPipeline (s.answerOrDraw d v) := by
  unfold State.answerOrDraw
  split <;> exact ⟨rfl⟩

theorem State.keepsPipeline_answerOrDrawBelow (s : State) (d : Bool) (v : Word) (n : Nat) :
    s.KeepsPipeline (s.answerOrDrawBelow d v n) := by
  unfold State.answerOrDrawBelow
  split <;> exact ⟨rfl⟩

theorem State.keepsPipeline_readBuf (s : State) (i : Nat) : s.KeepsPipeline (s.readBuf i) := by
  unfold State.readBuf State.afterBufWord
  split
  · split <;> exact ⟨rfl⟩
  · exact ⟨rfl⟩

theorem State.keepsPipeline_edgeFall (s : State) (k : Word) : s.KeepsPipeline (s.edgeFall k) :=
  ((s.keepsPipeline_afterCapture k).trans ⟨rfl⟩).trans ((State.keepsPipeline_driveMirror _ false).trans ⟨rfl⟩)

theorem State.keepsPipeline_edgeRise (s : State) (k : Word) : s.KeepsPipeline (s.edgeRise k) :=
  ((s.keepsPipeline_afterCapture k).trans ⟨rfl⟩).trans ((State.keepsPipeline_driveMirror _ true).trans ⟨rfl⟩)

/-! ### What an instruction does to the pipeline -/

/-- What instruction `i` can do at `s`, as far as the pipeline goes: leave it alone (reads, edges, a WR CFG, a skipped
event, a raise, a step that is not enabled), a host command by either of its forms, a transfer, the begin of a refill,
or the write of one word by a pull, whose generator has moved first. -/
inductive PipelineStep (s : State) : Instr → State → Prop
  | quiet {i : Instr} {t : State} (ht : s.KeepsPipeline t) : PipelineStep s i t
  | startTx {i : Instr} (hi : i = .startTx ∨ i = .wrCmd 1#32) (hb : s.fillActive = false) : PipelineStep s i s.startTx
  | stopTx {i : Instr} (hi : i = .stopTx ∨ i = .wrCmd 2#32) (hb : s.fillActive = false) : PipelineStep s i s.stopTx
  | startRx {i : Instr} (hi : i = .startRx ∨ i = .wrCmd 3#32) (hb : s.fillActive = false) : PipelineStep s i s.startRx
  | stopRx {i : Instr} (hi : i = .stopRx ∨ i = .wrCmd 4#32) (hb : s.fillActive = false) : PipelineStep s i s.stopRx
  | init {i : Instr} (hi : i = .init ∨ i = .wrCmd 5#32) (hb : s.fillActive = false) : PipelineStep s i s.initCmd
  | transfer (he : s.updateEnabled = true) : PipelineStep s .update s.transfer
  | refillBegin (he : s.refillEnabled = true) : PipelineStep s .refillBegin s.refillBegin
  | zero {i : Instr} {a : State} (hi : instrIsPull i = true) (hf : s.fillActive = true) (ha : s.KeepsPipeline a) :
      PipelineStep s i a.writeZero
  | value {i : Instr} {a : State} (v : Word) (hi : instrIsPull i = true) (hf : s.fillActive = true)
      (ha : s.KeepsPipeline a) : PipelineStep s i (a.writeValue v)

/-- A word is its upper three bytes and its lowest byte. -/
theorem word_eq_of_low_byte {v : Word} {b : BitVec 8} (hhigh : v.extractLsb' 8 24 = 0) (hlow : v.extractLsb' 0 8 = b) :
    v = b.setWidth 32 := by
  subst hlow
  have htop := congrArg BitVec.toNat hhigh
  apply BitVec.eq_of_toNat_eq
  simp only [BitVec.extractLsb'_toNat, BitVec.toNat_setWidth, BitVec.ofNat_eq_ofNat, BitVec.toNat_ofNat] at htop ⊢
  omega

/-- A command word is one of the five command words or raises a fault (43_host_access R193, R208). -/
theorem pipelineStep_command {s : State} (v : Word) (hb : s.fillActive = false) :
    PipelineStep s (.wrCmd v) (s.command v) := by
  unfold State.command
  split
  case isFalse => exact .quiet (s.keepsPipeline_raise _)
  case isTrue hhigh =>
    split
    case h_6 => exact .quiet (s.keepsPipeline_raise _)
    all_goals
      rename_i hlow
      obtain rfl := word_eq_of_low_byte hhigh hlow
    case h_1 => exact .startTx (.inr rfl) hb
    case h_2 => exact .stopTx (.inr rfl) hb
    case h_3 => exact .startRx (.inr rfl) hb
    case h_4 => exact .stopRx (.inr rfl) hb
    case h_5 => exact .init (.inr rfl) hb

/-- What a pull does with the generator's result. -/
theorem pipelineStep_applyGen {i : Instr} {s a : State} (r : GenResult) (hi : instrIsPull i = true)
    (hf : s.fillActive = true) (ha : s.KeepsPipeline a) : PipelineStep s i (a.applyGen r) := by
  cases r with
  | skip g => exact .quiet (ha.trans ⟨rfl⟩)
  | bad => exact .quiet (ha.trans (a.keepsPipeline_raise _))
  | emit v g =>
    have hg : s.KeepsPipeline (a.setGen g) := ha.trans ⟨rfl⟩
    unfold State.applyGen
    dsimp only
    split
    · exact .zero hi hf hg
    · exact .value v hi hf hg

theorem pipelineStep_pullStep {s : State} (hf : s.fillActive = true) : PipelineStep s .pull s.pullStep := by
  unfold State.pullStep
  split
  · exact pipelineStep_applyGen _ rfl hf (.refl s)
  · exact pipelineStep_applyGen _ rfl hf ⟨rfl⟩

theorem pipelineStep_updateStep {s : State} (he : s.updateEnabled = true) : PipelineStep s .update s.updateStep := by
  unfold State.updateStep
  split
  · exact .quiet (s.keepsPipeline_raise _)
  · exact .transfer he

theorem State.fillActive_of_takesEvent {s : State} (h : s.takesEvent = true) : s.fillActive = true := by
  simp only [State.takesEvent, Bool.and_eq_true] at h
  exact h.1

/-- The body of an enabled instruction. -/
theorem pipelineStep_bodyOf {i : Instr} {s : State} (he : enabledOf i s = true) : PipelineStep s i (bodyOf i s) := by
  cases i <;> simp only [enabledOf, State.busy, Bool.not_eq_true'] at he <;> simp only [bodyOf]
  case startTx => exact .startTx (.inl rfl) he
  case stopTx => exact .stopTx (.inl rfl) he
  case startRx => exact .startRx (.inl rfl) he
  case stopRx => exact .stopRx (.inl rfl) he
  case init => exact .init (.inl rfl) he
  case wrCmd v => exact pipelineStep_command v he
  case rdArr | rdCapDelta | rdCapCcr1 | rdCapCcr2 => exact .quiet (s.keepsPipeline_answerOrDraw _ _)
  case rdDmaIdx => exact .quiet (s.keepsPipeline_answerOrDrawBelow _ _ _)
  case rdBuf j =>
    split
    · exact .quiet (s.keepsPipeline_readBuf j)
    · exact .quiet (s.keepsPipeline_raise _)
  case badAccess => exact .quiet (s.keepsPipeline_raise _)
  case update => exact pipelineStep_updateStep he
  case refillBegin => exact .refillBegin he
  case pull => exact pipelineStep_pullStep he
  case edgeFall k => exact .quiet (s.keepsPipeline_edgeFall k)
  case edgeRise k => exact .quiet (s.keepsPipeline_edgeRise k)
  case level | wait | reset | badReserved =>
    exact pipelineStep_applyGen _ rfl (State.fillActive_of_takesEvent he) ⟨rfl⟩
  all_goals exact .quiet ⟨rfl⟩

/-- What any instruction that answers a next state does to the pipeline. -/
theorem exec_pipelineStep {i : Instr} {s t : State} (h : exec i s = .next t) : PipelineStep s i t := by
  obtain ⟨-, ⟨he, rfl⟩ | ⟨-, rfl⟩⟩ := exec_next h
  · exact pipelineStep_bodyOf he
  · exact .quiet (.refl _)

/-! ### The transceiver state (R22) -/

@[simp] theorem State.startTx_tstate (s : State) : s.startTx.tstate = s.tstate := by
  unfold State.startTx
  split <;> rfl

theorem State.stopTx_tstate (s : State) : s.stopTx.tstate = s.tstate ∨ s.stopTx.tstate = .idle := by
  unfold State.stopTx
  split_ifs <;> simp [State.closeTx]

theorem State.startRx_tstate (s : State) : s.startRx.tstate = s.tstate ∨ s.startRx.tstate = .asyncRx := by
  unfold State.startRx
  split_ifs <;> simp [State.openRx]

theorem State.stopRx_tstate (s : State) : s.stopRx.tstate = s.tstate ∨ s.stopRx.tstate = .idle := by
  unfold State.stopRx
  split_ifs <;> simp

theorem State.initCmd_tstate (s : State) :
    s.initCmd.tstate = s.tstate ∨ s.initCmd.tstate = .idle ∨ s.initCmd.tstate = .faulty := by
  unfold State.initCmd
  split_ifs <;> simp

@[simp] theorem State.transfer_tstate (s : State) : s.transfer.tstate = s.tstate := by simp [State.transfer]

theorem State.arm_tstate (s : State) : s.arm.tstate = s.tstate ∨ s.arm.tstate = .asyncTx := by
  unfold State.arm
  dsimp only
  split
  · exact .inr rfl
  · exact .inl (by simp [State.armTimer])

/-- The end of a fill writes the transceiver state only where it arms the timer. -/
theorem State.finishFill_tstate (s : State) :
    s.finishFill.tstate = s.tstate ∨ (s.fillKind = .prefill ∧ s.finishFill.tstate = .asyncTx) := by
  cases hk : s.fillKind
  · rw [State.finishFill_prefill hk]
    exact (State.arm_tstate _).imp id fun h => ⟨rfl, h⟩
  · rw [State.finishFill_refill hk]
    exact .inl rfl

theorem State.writeZero_tstate (s : State) :
    s.writeZero.tstate = s.tstate ∨ (s.fillKind = .prefill ∧ s.writeZero.tstate = .asyncTx) :=
  s.putZero.finishFill_tstate

theorem State.writeValue_tstate (s : State) (v : Word) :
    (s.writeValue v).tstate = s.tstate ∨ (s.fillKind = .prefill ∧ (s.writeValue v).tstate = .asyncTx) := by
  unfold State.writeValue
  dsimp only
  split
  · exact (s.putValue v).finishFill_tstate
  · exact .inl rfl

/-- Settles O17: of the pipeline steps, only four commands and the arming pulls write the transceiver state. -/
theorem onlyTheseInstructionsWriteTstate : Obligations.OnlyTheseInstructionsWriteTstate := by
  refine ⟨rfl, fun i s t hexec hne => ?_⟩
  cases exec_pipelineStep hexec with
  | quiet ht => exact absurd ht.tstate hne
  | startTx => exact absurd s.startTx_tstate hne
  | transfer => exact absurd s.transfer_tstate hne
  | refillBegin => exact absurd rfl hne
  | init hi => exact .inl ⟨hi, s.initCmd_tstate.resolve_left hne⟩
  | stopTx hi => exact .inr (.inr (.inl ⟨hi, s.stopTx_tstate.resolve_left hne⟩))
  | startRx hi => exact .inr (.inr (.inr (.inl ⟨hi, s.startRx_tstate.resolve_left hne⟩)))
  | stopRx hi => exact .inr (.inr (.inr (.inr ⟨hi, s.stopRx_tstate.resolve_left hne⟩)))
  | zero hi hf ha =>
    rw [← ha.tstate] at hne
    obtain ⟨hk, ht⟩ := (State.writeZero_tstate _).resolve_left hne
    exact .inr (.inl ⟨hi, hf, ha.fillKind ▸ hk, ht⟩)
  | value v hi hf ha =>
    rw [← ha.tstate] at hne
    obtain ⟨hk, ht⟩ := (State.writeValue_tstate _ v).resolve_left hne
    exact .inr (.inl ⟨hi, hf, ha.fillKind ▸ hk, ht⟩)

/-! ### The reload buffer (R29) -/

@[simp] theorem State.stopTx_buf (s : State) : s.stopTx.buf = s.buf := by
  unfold State.stopTx
  split_ifs <;> simp [State.closeTx]

@[simp] theorem State.startRx_buf (s : State) : s.startRx.buf = s.buf := by
  unfold State.startRx
  split_ifs <;> simp [State.openRx]

@[simp] theorem State.stopRx_buf (s : State) : s.stopRx.buf = s.buf := by
  unfold State.stopRx
  split_ifs <;> simp

@[simp] theorem State.initCmd_buf (s : State) : s.initCmd.buf = s.buf := by
  unfold State.initCmd
  split <;> rfl

@[simp] theorem State.transfer_buf (s : State) : s.transfer.buf = s.buf := by simp [State.transfer]

@[simp] theorem State.arm_buf (s : State) : s.arm.buf = s.buf := by
  unfold State.arm
  dsimp only
  split <;> simp [State.armTimer]

@[simp] theorem State.finishFill_buf (s : State) : s.finishFill.buf = s.buf := by
  unfold State.finishFill
  split <;> simp

theorem State.writeZero_buf (s : State) : s.writeZero.buf = Memory.write s.buf s.fillPos 0 :=
  s.putZero.finishFill_buf

theorem State.writeValue_buf (s : State) (v : Word) :
    (s.writeValue v).buf = Memory.write s.buf s.fillPos (encReload v) := by
  unfold State.writeValue
  dsimp only
  split
  · exact (s.putValue v).finishFill_buf
  · rfl

/-- Settles O19: besides START_TX only the two writing pulls touch the buffer, and both write at `fillPos`. -/
theorem onlyTheFeederWritesTheBuffer : Obligations.OnlyTheFeederWritesTheBuffer := by
  intro i s t j hexec hstart hword hj
  cases exec_pipelineStep hexec with
  | quiet ht => rw [ht.buf]
  | startTx hi => exact (hi.elim hstart hword).elim
  | stopTx => rw [s.stopTx_buf]
  | startRx => rw [s.startRx_buf]
  | stopRx => rw [s.stopRx_buf]
  | init => rw [s.initCmd_buf]
  | transfer => rw [s.transfer_buf]
  | refillBegin => rfl
  | zero hi _ ha => rw [State.writeZero_buf, ha.buf, ha.fillPos, Memory.read_write_other _ _ (hj hi)]
  | value v hi _ ha => rw [State.writeValue_buf, ha.buf, ha.fillPos, Memory.read_write_other _ _ (hj hi)]

/-! ### The invariants of the pipeline (R54) -/

theorem Params.n_pos {p : Params} (hw : p.wf) : 0 < p.n := by
  have := hw.1
  simp only [Params.n]
  omega

/-- Outside a transmit session the timer does not run. -/
theorem State.pipelineInv.txRun_eq_false {s : State} (h : s.pipelineInv) (ht : s.tstate ≠ .asyncTx) :
    s.txRun = false := by
  obtain ⟨-, -, hrun, -⟩ := h
  exact Bool.eq_false_iff.mpr fun hr => ht (hrun hr)

/-- Outside a session the mirror pin is not used. -/
theorem State.pipelineInv.mirrorActive_eq_false {s : State} (h : s.pipelineInv) (htx : s.tstate ≠ .asyncTx)
    (hrx : s.tstate ≠ .asyncRx) : s.mirrorActive = false := by
  obtain ⟨-, -, -, hmirror, -⟩ := h
  exact Bool.eq_false_iff.mpr fun hm => (hmirror hm).elim htx hrx

/-- With no fill and no running timer, the invariants ask for the ranges, the mirror pin and the requests only. -/
theorem State.pipelineInv_of_stopped {s : State} (hdma : s.dmaIdx < s.params.n) (hfill : s.fillActive = false)
    (hrun : s.txRun = false) (hmirror : s.mirrorActive = true → s.tstate = .asyncTx ∨ s.tstate = .asyncRx)
    (hreq : s.feedIe = false → s.htPend = false ∧ s.tcPend = false) : s.pipelineInv := by
  refine ⟨hdma, ?_, ?_, hmirror, hreq, ?_, ?_, ?_⟩
  · simp [hfill]
  · simp [hrun]
  · simp [hfill]
  · simp [hfill]
  · simp [State.halted, hrun]

theorem State.startTx_pipelineInv {s : State} (hw : s.params.wf) (h : s.pipelineInv) : s.startTx.pipelineInv := by
  unfold State.startTx
  split
  case isFalse => exact State.KeepsPipeline.pipelineInv ⟨rfl⟩ h
  case isTrue hidle =>
    obtain ⟨hdma, -, hrun, hmirror, hreq, -, -, hhalt⟩ := h
    exact ⟨hdma, fun _ => ⟨Params.n_pos hw, le_rfl⟩, hrun, hmirror, hreq, fun _ => hidle.1, nofun, hhalt⟩

theorem State.stopTx_pipelineInv {s : State} (hb : s.fillActive = false) (h : s.pipelineInv)
    (hf : s.stopTx.fault = false) : s.stopTx.pipelineInv := by
  unfold State.stopTx at hf ⊢
  obtain ⟨hdma, -⟩ := h
  split_ifs at hf ⊢
  · exact State.pipelineInv_of_stopped hdma hb rfl nofun fun _ => ⟨rfl, rfl⟩
  · simp at hf
  · simp at hf

theorem State.startRx_pipelineInv {s : State} (hb : s.fillActive = false) (h : s.pipelineInv)
    (hf : s.startRx.fault = false) : s.startRx.pipelineInv := by
  have hinv := h
  obtain ⟨hdma, -, -, -, hreq, -⟩ := h
  unfold State.startRx at hf ⊢
  split_ifs at hf ⊢ with hidle
  · exact State.pipelineInv_of_stopped hdma hb (hinv.txRun_eq_false (by simp [hidle])) (fun _ => .inr rfl) hreq
  · simp at hf
  · exact State.KeepsPipeline.pipelineInv ⟨rfl⟩ hinv

theorem State.stopRx_pipelineInv {s : State} (hb : s.fillActive = false) (h : s.pipelineInv)
    (hf : s.stopRx.fault = false) : s.stopRx.pipelineInv := by
  have hinv := h
  obtain ⟨hdma, -, -, -, hreq, -⟩ := h
  unfold State.stopRx at hf ⊢
  split_ifs at hf ⊢ with hrx
  · exact State.pipelineInv_of_stopped hdma hb (hinv.txRun_eq_false (by simp [hrx])) nofun hreq
  · simp at hf
  · simp at hf

theorem State.initCmd_pipelineInv {s : State} (hb : s.fillActive = false) (h : s.pipelineInv) :
    s.initCmd.pipelineInv := by
  have hinv := h
  obtain ⟨hdma, -, -, -, hreq, -⟩ := h
  unfold State.initCmd
  split
  case isTrue => exact State.KeepsPipeline.pipelineInv ⟨rfl⟩ hinv
  case isFalse hno =>
    obtain ⟨hrx, htx⟩ := not_or.mp hno
    refine State.pipelineInv_of_stopped hdma hb (hinv.txRun_eq_false htx) (fun hm => ?_) hreq
    exact absurd hm (by simp [hinv.mirrorActive_eq_false htx hrx])

/-- A transfer leaves the index in range, keeps the requests down where the feeder is off, and drives the idle level
where the reload register becomes 0. -/
theorem State.transfer_pipelineInv {s : State} (hw : s.params.wf) (h : s.pipelineInv) : s.transfer.pipelineInv := by
  obtain ⟨-, hfill, hrun, hmirror, hreq, hpre, hrefill, -⟩ := h
  refine ⟨?_, ?_, ?_, ?_, ?_, ?_, ?_, ?_⟩
  · simpa [State.transfer] using Nat.mod_lt _ (Params.n_pos hw)
  · simpa [State.transfer] using hfill
  · simpa [State.transfer] using hrun
  · simpa [State.transfer] using hmirror
  · simp +contextual [State.transfer, hreq]
  · simpa [State.transfer] using hpre
  · simpa [State.transfer] using hrefill
  · simp +contextual [State.transfer, State.halted, nextLevel]

theorem halfStart_add_half_le (p : Params) (h : Half) : halfStart p h + p.half ≤ p.n := by
  cases h <;> simp only [halfStart, Params.n] <;> omega

theorem State.refillBegin_pipelineInv {s : State} (hw : s.params.wf) (he : s.refillEnabled = true)
    (h : s.pipelineInv) : s.refillBegin.pipelineInv := by
  obtain ⟨hdma, -, hrun, hmirror, hreq, -, -, hhalt⟩ := h
  obtain ⟨hhalf, -⟩ := hw
  refine ⟨hdma, ?_, hrun, hmirror, ?_, nofun, ?_, hhalt⟩
  · exact fun _ => ⟨Nat.lt_add_of_pos_right hhalf, halfStart_add_half_le _ _⟩
  · intro hie
    obtain ⟨hht, htc⟩ := hreq hie
    simp [State.refillBegin, hht, htc]
  · intro _
    simp only [State.refillEnabled, Bool.and_eq_true, beq_iff_eq] at he
    exact he.1.1

/-- Arming sets every field the invariants read, but for the fill. -/
theorem State.arm_pipelineInv {s : State} (hw : s.params.wf) (hb : s.fillActive = false) (hf : s.arm.fault = false) :
    s.arm.pipelineInv := by
  unfold State.arm at hf ⊢
  dsimp only at hf ⊢
  split_ifs at hf ⊢
  · simp [State.armTimer, State.pipelineInv, State.halted, hb, Params.n_pos hw]
  · simp at hf

/-- The end of a fill keeps the invariants where they hold once the fill is over. -/
theorem State.finishFill_pipelineInv {s : State} (hw : s.params.wf) (h : { s with fillActive := false }.pipelineInv)
    (hf : s.finishFill.fault = false) : s.finishFill.pipelineInv := by
  cases hk : s.fillKind
  · rw [State.finishFill_prefill hk] at hf ⊢
    exact State.arm_pipelineInv hw rfl hf
  · rw [State.finishFill_refill hk]
    exact h

theorem State.writeZero_pipelineInv {s : State} (hw : s.params.wf) (h : s.pipelineInv)
    (hf : s.writeZero.fault = false) : s.writeZero.pipelineInv := by
  obtain ⟨hdma, -, hrun, hmirror, -, -, -, hhalt⟩ := h
  refine s.putZero.finishFill_pipelineInv hw ?_ hf
  exact ⟨hdma, nofun, hrun, hmirror, fun _ => ⟨rfl, rfl⟩, nofun, nofun, hhalt⟩

theorem State.writeValue_pipelineInv {s : State} (v : Word) (hw : s.params.wf) (ha : s.fillActive = true)
    (h : s.pipelineInv) (hf : (s.writeValue v).fault = false) : (s.writeValue v).pipelineInv := by
  obtain ⟨hdma, hfill, hrun, hmirror, hreq, hpre, hrefill, hhalt⟩ := h
  unfold State.writeValue at hf ⊢
  dsimp only at hf ⊢
  split_ifs at hf ⊢ with hend
  · refine (s.putValue v).finishFill_pipelineInv hw ?_ hf
    exact ⟨hdma, nofun, hrun, hmirror, hreq, nofun, nofun, hhalt⟩
  · obtain ⟨hpos, hle⟩ := hfill ha
    exact ⟨hdma, fun _ => ⟨lt_of_le_of_ne hpos hend, hle⟩, hrun, hmirror, hreq, hpre, hrefill, hhalt⟩

/-- Every instruction that raises no fault keeps the invariants. -/
theorem exec_pipelineInv {i : Instr} {s t : State} (hexec : exec i s = .next t) (hw : s.params.wf) (h : s.pipelineInv)
    (hf : t.fault = false) : t.pipelineInv := by
  cases exec_pipelineStep hexec with
  | quiet ht => exact ht.pipelineInv h
  | startTx => exact State.startTx_pipelineInv hw h
  | stopTx _ hb => exact State.stopTx_pipelineInv hb h hf
  | startRx _ hb => exact State.startRx_pipelineInv hb h hf
  | stopRx _ hb => exact State.stopRx_pipelineInv hb h hf
  | init _ hb => exact State.initCmd_pipelineInv hb h
  | transfer => exact State.transfer_pipelineInv hw h
  | refillBegin he => exact State.refillBegin_pipelineInv hw he h
  | zero _ _ ha => exact State.writeZero_pipelineInv (ha.params ▸ hw) (ha.pipelineInv h) hf
  | value v _ hfill ha =>
    exact State.writeValue_pipelineInv v (ha.params ▸ hw) (ha.fillActive.trans hfill) (ha.pipelineInv h) hf

/-- Settles O12: the fetch and the host's variables touch nothing of the pipeline, and every instruction keeps the
invariants and the parameters. -/
theorem pipelineInvariantKept : Obligations.PipelineInvariantKept := by
  intro s t hw hinv hstep
  refine (step_keeps (P := fun u => u.params.wf ∧ (u.fault = false → u.pipelineInv)) ?_ ?_ ?_ hstep ⟨hw, hinv⟩).2
  · intro u v huv hu
    rw [huv.eq]
    exact hu
  · exact fun u x w hu => hu
  · intro i u v hok hu hexec
    exact ⟨(exec_carries hexec).params ▸ hu.1, exec_pipelineInv hexec hu.1 (hu.2 hok)⟩

end Sys2Proof.Machine
end

section
/-! PROOFS. The statements of spec/20_memory.md: the reload buffer's form, the race between the DMA and a refill, and
what a host read writes. -/

namespace Sys2Proof.Machine

/-! ### One step, from a condition before it to a condition after it -/

/-- Where `P` holds before a step, `Q` holds after it: the two conditions do not look at the schedule or the host's own
fields, `P` gives `Q` for a step that leaves the block alone, and every instruction leads from `P` to `Q`. -/
theorem step_leads {P Q : State → Prop} (hblock : ∀ s u, s.SameBlock u → P s → P u) (hkeep : ∀ s, P s → Q s)
    (hvar : ∀ s x v, Q s → Q (s.setHostVar x v)) (hexec : ∀ i s t, P s → exec i s = .next t → Q t) {s t : State}
    (h : step s = .next t) (hs : P s) : Q t := by
  obtain ⟨-, ⟨u, hu, rfl⟩ | ⟨u, i, w, hu, hw, ht⟩⟩ := step_next h
  · exact hkeep _ (hblock _ _ hu hs)
  · have hq : Q w := hexec _ _ _ (hblock _ _ hu hs) hw
    obtain rfl | ⟨x, -, rfl⟩ := ht
    · exact hq
    · exact hvar _ _ _ hq

/-! ### The form of the reload buffer (R60) -/

/-- A buffer with its listed indices rising and below `n`: `State.bufferInv` says this of a state's own buffer, with N
for `n`. -/
abbrev Memory.wfBelow (n : Nat) (m : Memory) : Prop := Memory.wf m ∧ ∀ e ∈ m, e.1 < n

theorem Memory.wfBelow_write {n i : Nat} {m : Memory} (v : Word) (hi : i < n) (h : Memory.wfBelow n m) :
    Memory.wfBelow n (Memory.write m i v) := by
  obtain ⟨hwf, hlt⟩ := h
  refine ⟨Memory.wf_write i v hwf, fun e he => ?_⟩
  obtain rfl | he := Memory.mem_write he
  · exact hi
  · exact hlt e he

theorem State.startTx_wfBelow {n : Nat} {s : State} (h : Memory.wfBelow n s.buf) : Memory.wfBelow n s.startTx.buf := by
  unfold State.startTx
  split
  · exact ⟨Memory.wf_nil, nofun⟩
  · exact h

/-- While a fill runs its position is a word of the buffer. -/
theorem State.pipelineInv.fillPos_lt {s : State} (h : s.pipelineInv) (ha : s.fillActive = true) :
    s.fillPos < s.params.n := by
  obtain ⟨-, hfill, -⟩ := h
  obtain ⟨hpos, hend⟩ := hfill ha
  exact lt_of_lt_of_le hpos hend

/-- Only the pulls of a fill list a word, at the fill's position; START_TX unlists all. -/
theorem exec_bufferInv {i : Instr} {s t : State} (hexec : exec i s = .next t) (hpipe : s.pipelineInv)
    (h : s.bufferInv) : t.bufferInv := by
  change Memory.wfBelow t.params.n t.buf
  rw [(exec_carries hexec).params]
  cases exec_pipelineStep hexec with
  | quiet ht => rwa [ht.buf]
  | startTx => exact State.startTx_wfBelow h
  | stopTx => rwa [s.stopTx_buf]
  | startRx => rwa [s.startRx_buf]
  | stopRx => rwa [s.stopRx_buf]
  | init => rwa [s.initCmd_buf]
  | transfer => rwa [s.transfer_buf]
  | refillBegin => exact h
  | zero _ hf ha =>
    rw [State.writeZero_buf, ha.buf, ha.fillPos]
    exact Memory.wfBelow_write _ (hpipe.fillPos_lt hf) h
  | value v _ hf ha =>
    rw [State.writeValue_buf, ha.buf, ha.fillPos]
    exact Memory.wfBelow_write _ (hpipe.fillPos_lt hf) h

/-- Settles O13: the fill range of R54 bounds the one word a pull can list. -/
theorem bufferInvariantKept : Obligations.BufferInvariantKept := by
  intro s t hpipe hbuf hstep
  refine step_leads (P := fun u => u.pipelineInv ∧ u.bufferInv) (Q := State.bufferInv) ?_ ?_ ?_ ?_ hstep ⟨hpipe, hbuf⟩
  · intro u v huv hu
    rw [huv.eq]
    exact hu
  · exact fun u hu => hu.2
  · exact fun u x v hu => hu
  · exact fun i u v hu hexec => exec_bufferInv hexec hu.1 hu.2

/-! ### The race between the DMA and a refill (R71, R72) -/

/-- A step that leaves the DMA index and makes no clean half dirty keeps the invariant. -/
theorem State.raceInv.of_dirty_imp {s t : State} (h : s.raceInv) (hp : t.params = s.params) (hi : t.dmaIdx = s.dmaIdx)
    (hd : ∀ h, t.dirty h = true → s.dirty h = true) : t.raceInv := by
  obtain ⟨hfirst, hsecond⟩ := h
  unfold State.raceInv
  rw [hp, hi]
  exact ⟨fun hd1 => hfirst (hd _ hd1), fun hd2 => hsecond (hd _ hd2)⟩

/-- With no half dirty the invariant asks for nothing. -/
theorem State.raceInv_of_clean {s : State} (hc : ∀ h, s.dirty h = false) : s.raceInv := by
  simp [State.raceInv, hc]

theorem State.KeepsPipeline.raceInv {s t : State} (h : s.KeepsPipeline t) (hinv : s.raceInv) : t.raceInv := by
  rw [h.eq]
  exact hinv

/-- With no request pending and no fill running, both halves are clean. -/
theorem State.dirty_eq_false {s : State} (hht : s.htPend = false) (htc : s.tcPend = false)
    (hfill : s.fillActive = false) (h : Half) : s.dirty h = false := by
  cases h <;> simp [State.dirty, hht, htc, hfill]

theorem State.startTx_raceInv {s : State} (h : s.raceInv) : s.startTx.raceInv := by
  unfold State.startTx
  split
  · refine h.of_dirty_imp rfl rfl fun half hd => ?_
    cases half <;> simp_all [State.dirty, State.prefillBegin]
  · exact h

theorem State.stopTx_raceInv {s : State} (hb : s.fillActive = false) (h : s.raceInv) : s.stopTx.raceInv := by
  unfold State.stopTx
  split_ifs
  · exact State.raceInv_of_clean (State.dirty_eq_false rfl rfl hb)
  · exact (State.keepsPipeline_raise _ _).raceInv h
  · exact (State.keepsPipeline_raise _ _).raceInv h

theorem State.startRx_raceInv {s : State} (h : s.raceInv) : s.startRx.raceInv := by
  unfold State.startRx
  split_ifs
  · exact h
  · exact (State.keepsPipeline_raise _ _).raceInv h
  · exact h

theorem State.stopRx_raceInv {s : State} (h : s.raceInv) : s.stopRx.raceInv := by
  unfold State.stopRx
  split_ifs
  · exact h
  · exact (State.keepsPipeline_raise _ _).raceInv h
  · exact (State.keepsPipeline_raise _ _).raceInv h

theorem State.initCmd_raceInv {s : State} (h : s.raceInv) : s.initCmd.raceInv := by
  unfold State.initCmd
  split <;> exact h

/-- The half a refill takes was requested. -/
theorem State.dirty_refillHalf {s : State} (he : s.refillEnabled = true) : s.dirty s.refillHalf = true := by
  simp only [State.refillEnabled, Bool.and_eq_true, Bool.or_eq_true] at he
  obtain ⟨-, hreq⟩ := he
  unfold State.refillHalf
  split_ifs with hboth _ hht
  · simp_all [State.dirty]
  · simp_all [State.dirty]
  · simp [State.dirty, hht]
  · simp [State.dirty, hreq.resolve_left hht]

/-- A refill makes no half dirty but the one it takes, which is dirty already. -/
theorem State.dirty_of_dirty_refillBegin {s : State} (he : s.refillEnabled = true) (h : Half)
    (hd : s.refillBegin.dirty h = true) : s.dirty h = true := by
  by_cases hh : s.refillHalf = h
  · exact hh ▸ State.dirty_refillHalf he
  · cases h <;> simp_all [State.dirty, State.refillBegin]

/-- Arming clears both requests, whatever the chip answers. -/
theorem State.arm_raceInv {s : State} (hb : s.fillActive = false) : s.arm.raceInv := by
  refine State.raceInv_of_clean (State.dirty_eq_false ?_ ?_ ?_) <;>
    · unfold State.arm
      dsimp only
      split <;> simp [State.armTimer, hb]

/-- A fill that ends leaves the half it filled clean. -/
theorem State.finishFill_raceInv {s : State} (h : s.raceInv) : s.finishFill.raceInv := by
  cases hk : s.fillKind
  · rw [State.finishFill_prefill hk]
    exact State.arm_raceInv rfl
  · rw [State.finishFill_refill hk]
    refine h.of_dirty_imp rfl rfl fun half hd => ?_
    cases half <;> simp_all [State.dirty]

/-- The terminator clears the requests (41_tx_pipeline R148). -/
theorem State.writeZero_raceInv {s : State} (h : s.raceInv) : s.writeZero.raceInv := by
  refine State.finishFill_raceInv (h.of_dirty_imp rfl rfl fun half hd => ?_)
  cases half <;> simp_all [State.dirty, State.putZero]

theorem State.writeValue_raceInv {s : State} (v : Word) (h : s.raceInv) : (s.writeValue v).raceInv := by
  unfold State.writeValue
  dsimp only
  split
  · exact State.finishFill_raceInv h
  · exact h

/-- What an UPDATE that answers a next state can do: pass its turn, fault, or transfer the word at the DMA index, and
that only where the half which begins there is clean, under either policy (41_tx_pipeline R150 to R152). -/
theorem exec_update_next {s t : State} (h : exec .update s = .next t) :
    t = s ∨ t = s.raise .txUnderrun ∨ (t = s.transfer ∧ s.needsRefill = false) := by
  obtain ⟨-, ⟨he, rfl⟩ | ⟨-, rfl⟩⟩ := exec_next h
  case inr => exact .inl rfl
  case inl =>
    change s.updateStep = s ∨ s.updateStep = _ ∨ (s.updateStep = _ ∧ _)
    unfold State.updateStep
    split
    case isTrue => exact .inr (.inl rfl)
    case isFalse hno =>
      refine .inr (.inr ⟨rfl, ?_⟩)
      simp only [enabledOf, State.updateEnabled, State.holds, Bool.and_eq_true, Bool.not_eq_true'] at he
      cases hp : s.params.policy
      · simpa [hp] using he.2
      · simpa [hp] using hno

/-- The DMA does not stand in a dirty half where no refill is needed: the invariant leaves it the half's first word
only, and there a refill is needed. -/
theorem State.raceInv.not_inHalf_of_dirty {s : State} {h : Half} (hinv : s.raceInv) (hn : s.needsRefill = false)
    (hd : s.dirty h = true) : ¬inHalf s.params h s.dmaIdx := by
  obtain ⟨hfirst, hsecond⟩ := hinv
  simp only [State.needsRefill, Bool.or_eq_false_iff, Bool.and_eq_false_iff, beq_eq_false_iff_ne] at hn
  cases h
  case first =>
    have hidx : s.dmaIdx ≠ 0 := hn.1.resolve_right (by simp [hd])
    have := hfirst hd
    simp only [inHalf]
    omega
  case second =>
    have hidx : s.dmaIdx ≠ s.params.half := hn.2.resolve_right (by simp [hd])
    have := hsecond hd
    simp only [inHalf]
    omega

/-- A transfer requests a refill of a half only with that half's last word (41_tx_pipeline R153). -/
theorem State.dirty_of_dirty_transfer {s : State} {h : Half} (hd : s.transfer.dirty h = true) :
    s.dirty h = true ∨ s.dmaIdx + 1 = halfStart s.params h + s.params.half := by
  refine or_iff_not_imp_right.mpr fun hne => ?_
  cases h
  case first =>
    have hne' : s.dmaIdx + 1 ≠ s.params.half := by simpa [halfStart] using hne
    simpa [State.dirty, State.transfer, hne'] using hd
  case second =>
    have hne' : s.dmaIdx + 1 ≠ s.params.n := by simpa [halfStart, Params.n, two_mul] using hne
    simpa [State.dirty, State.transfer, hne'] using hd

/-- A transfer leaves a half only with its last word, and so a half it makes dirty is behind the DMA; a half dirty
before it holds neither the word transferred nor, but for its first word, the next. -/
theorem State.transfer_raceInv {s : State} (hi : s.dmaIdx < s.params.n) (hn : s.needsRefill = false)
    (h : s.raceInv) : s.transfer.raceInv := by
  have hidx : s.transfer.dmaIdx = (s.dmaIdx + 1) % s.params.n := rfl
  have hnext : s.dmaIdx + 1 = s.params.n ∧ s.transfer.dmaIdx = 0 ∨
      s.dmaIdx + 1 < s.params.n ∧ s.transfer.dmaIdx = s.dmaIdx + 1 := by
    obtain hlt | hend := Nat.lt_or_eq_of_le (Nat.succ_le_of_lt hi)
    · exact .inr ⟨hlt, hidx.trans (Nat.mod_eq_of_lt hlt)⟩
    · exact .inl ⟨hend, hidx.trans (hend ▸ Nat.mod_self _)⟩
  have hn2 : s.params.n = 2 * s.params.half := rfl
  unfold State.raceInv
  rw [s.carries_transfer.params]
  constructor <;> intro hd <;> obtain hd | hlast := State.dirty_of_dirty_transfer hd
  case left.inl | right.inl =>
    have hout := h.not_inHalf_of_dirty hn hd
    simp only [inHalf] at hout
    omega
  case left.inr | right.inr =>
    simp only [halfStart] at hlast
    omega

/-- Every instruction keeps a dirty half out of the DMA's way. -/
theorem exec_raceInv {i : Instr} {s t : State} (hexec : exec i s = .next t) (hi : s.dmaIdx < s.params.n)
    (h : s.raceInv) : t.raceInv := by
  cases exec_pipelineStep hexec with
  | quiet ht => exact ht.raceInv h
  | startTx => exact State.startTx_raceInv h
  | stopTx _ hb => exact State.stopTx_raceInv hb h
  | startRx => exact State.startRx_raceInv h
  | stopRx => exact State.stopRx_raceInv h
  | init => exact State.initCmd_raceInv h
  | transfer =>
    obtain ht | ht | ⟨-, hn⟩ := exec_update_next hexec
    · rwa [ht]
    · rw [ht]
      exact (s.keepsPipeline_raise _).raceInv h
    · exact State.transfer_raceInv hi hn h
  | refillBegin he => exact h.of_dirty_imp rfl rfl (State.dirty_of_dirty_refillBegin he)
  | zero _ _ ha => exact State.writeZero_raceInv (ha.raceInv h)
  | value v _ _ ha => exact State.writeValue_raceInv v (ha.raceInv h)

/-- Settles O14: every instruction keeps the invariant while the DMA index is in range. -/
theorem refillRaceInvariantKept : Obligations.RefillRaceInvariantKept := by
  intro s t _ hidx hrace hstep
  refine step_leads (P := fun u => u.dmaIdx < u.params.n ∧ u.raceInv) (Q := State.raceInv) ?_ ?_ ?_ ?_ hstep
    ⟨hidx, hrace⟩
  · intro u v huv hu
    rw [huv.eq]
    exact hu
  · exact fun u hu => hu.2
  · exact fun u x v hu => hu
  · exact fun i u v hu hexec => exec_raceInv hexec hu.1 hu.2

/-- Settles O15: the half under refill is dirty, so a transfer finds the DMA outside it. -/
theorem refilledHalfIsNotTransferred : Obligations.RefilledHalfIsNotTransferred := by
  intro s t _ hrace hfill hkind hexec
  have hd : s.dirty s.fillHalf = true := by simp [State.dirty, hfill, hkind]
  obtain ht | ht | ⟨-, hn⟩ := exec_update_next hexec
  · exact .inl ht
  · exact .inr (.inl (by simp [ht]))
  · exact .inr (.inr (hrace.not_inHalf_of_dirty hn hd))

/-! ### Host reads (R67) -/

theorem instrIsHost_of_instrIsRead {p : Params} {i : Instr} (h : instrIsRead p i = true) : instrIsHost i = true := by
  revert h
  cases i <;> simp [instrIsRead, instrIsHost]

/-- A HOST step is enabled exactly while the feeder does not run (43_host_access R190, R191). -/
theorem enabledOf_of_instrIsHost {i : Instr} (s : State) (h : instrIsHost i = true) : enabledOf i s = !s.busy := by
  revert h
  cases i <;> simp [instrIsHost, enabledOf]

/-- A HOST step where the HOST has one. -/
theorem exec_of_hostReady {i : Instr} {s : State} (h : instrIsHost i = true) (hs : s.hostReady) :
    exec i s = .next (bodyOf i s) := by
  obtain ⟨hfault, hbusy⟩ := hs
  rw [exec_eq_takeStep]
  exact takeStep_enabled hfault (by rw [enabledOf_of_instrIsHost s h, hbusy]; rfl)

/-- The update returns a value to the host, at the cost of at most one draw, and leaves the block alone. -/
def State.Returns (s t : State) : Prop :=
  ∃ (v : Word) (d : Nat), t = { s with rdata := v, draws := d } ∧ (d = s.draws ∨ d = s.draws + 1)

theorem State.returns_answer (s : State) (v : Word) : s.Returns (s.answer v) := ⟨v, s.draws, rfl, .inl rfl⟩

theorem State.returns_afterDraw_answer (s : State) (v : Word) : s.Returns (s.afterDraw.answer v) :=
  ⟨v, s.draws + 1, rfl, .inr rfl⟩

theorem State.returns_answerOrDraw (s : State) (d : Bool) (v : Word) : s.Returns (s.answerOrDraw d v) := by
  unfold State.answerOrDraw
  split
  · exact s.returns_answer v
  · exact s.returns_afterDraw_answer _

theorem State.returns_answerOrDrawBelow (s : State) (d : Bool) (v : Word) (n : Nat) :
    s.Returns (s.answerOrDrawBelow d v n) := by
  unfold State.answerOrDrawBelow
  split
  · exact s.returns_answer v
  · exact s.returns_afterDraw_answer _

theorem State.returns_readBuf (s : State) (i : Nat) : s.Returns (s.readBuf i) := by
  unfold State.readBuf State.afterBufWord
  split_ifs
  · exact s.returns_answer _
  · exact s.returns_afterDraw_answer _
  · exact s.returns_afterDraw_answer _

theorem State.returns_of_instrIsRead {i : Instr} {s : State} (h : instrIsRead s.params i = true) :
    s.Returns (bodyOf i s) := by
  cases i <;> simp only [instrIsRead, decide_eq_true_eq, Bool.false_eq_true] at h <;> simp only [bodyOf]
  case rdStatus | txComplete | rdCfg | rdDutyHigh | rdDutyLow | rdMwAcc => exact s.returns_answer _
  case rdArr | rdCapDelta | rdCapCcr1 | rdCapCcr2 => exact s.returns_answerOrDraw _ _
  case rdDmaIdx => exact s.returns_answerOrDrawBelow _ _ _
  case rdCnt => exact s.returns_afterDraw_answer _
  case rdBuf j =>
    rw [if_pos h]
    exact s.returns_readBuf j

/-- Settles O20: a ready host's read is its body, and every read's body only returns a value. -/
theorem hostReadsWriteNoBlockState : Obligations.HostReadsWriteNoBlockState := by
  intro i s hread hready
  obtain ⟨v, d, hbody, hd⟩ := State.returns_of_instrIsRead hread
  exact ⟨v, d, by rw [exec_of_hostReady (instrIsHost_of_instrIsRead hread) hready, hbody], hd⟩

end Sys2Proof.Machine
end

section
/-! PROOFS. The statements of spec/30_encoding.md: decoder and encoder undo each other, the two forms of a host access
agree, and the packed registers STATUS and CFG read field by field. What the decoder makes of a descriptor rests on
`descAdmitted_eq_isSome_descRow`: the admitted descriptors are those with a row in the register map. -/

namespace Sys2Proof

/-! ### The register map read backwards (R82) -/

/-- A register has a place in the map: a BUF word has one of the 256 places of R89, any other register its own. -/
abbrev Reg.Placed (r : Reg) : Prop := ∀ i, r = .buf i → i < 256

theorem Reg.placed_buf {i : Nat} (h : i < 256) : (Reg.buf i).Placed := by
  rintro j ⟨⟩
  exact h

theorem regAtWord_spec {w : Nat} {r : Reg} (h : regAtWord w = some r) : r.offset = 4 * w ∧ r.Placed := by
  unfold regAtWord at h
  split at h
  case h_13 =>
    split at h <;> cases h
    exact ⟨by simp only [Reg.offset]; omega, Reg.placed_buf (by omega)⟩
  all_goals
    cases h
    exact ⟨rfl, nofun⟩

/-- The map gives no register but the one at that offset. -/
theorem regAt_spec {off : Nat} {r : Reg} (h : regAt off = some r) : r.offset = off ∧ r.Placed := by
  unfold regAt at h
  split at h
  case isTrue halign =>
    obtain ⟨hoff, hplaced⟩ := regAtWord_spec h
    exact ⟨by omega, hplaced⟩
  case isFalse => cases h

/-! ### The row of a descriptor (R81, R82) -/

/-- The instruction of the row of the register map that a descriptor matches, if it matches one. -/
def descRow (d : BitVec 13) (v : Word) : Option Instr := (regAt (descOff d)).bind fun r => regInstr (descDir d) r v

/-- A descriptor decodes by its row, and without one to the bad access of itself. -/
theorem decodeDesc_eq_getD_descRow (d : BitVec 13) (v : Word) :
    decodeDesc d v = (descRow d v).getD (.badAccess (.desc d v)) := by
  unfold decodeDesc descRow
  split <;> rename_i h <;> rw [h] <;> rfl

/-- A descriptor is its direction and its offset. -/
theorem mkDesc_descDir_descOff (d : BitVec 13) : mkDesc (descDir d) (descOff d) = d := by
  have hd := d.isLt
  apply BitVec.eq_of_toNat_eq
  simp only [mkDesc, descDir, descOff, BitVec.toNat_ofNat]
  by_cases h : d.toNat / 0x1000 = 1 <;> simp only [h, if_true, if_false] <;> omega

/-- A matched row is that of a register whose offset and a direction it allows make up the descriptor. -/
theorem descRow_spec {d : BitVec 13} {v : Word} {i : Instr} (h : descRow d v = some i) :
    ∃ dir r, r.Placed ∧ mkDesc dir r.offset = d ∧ regInstr dir r v = some i := by
  obtain ⟨r, hr, hi⟩ := Option.bind_eq_some_iff.mp h
  obtain ⟨hoff, hplaced⟩ := regAt_spec hr
  exact ⟨descDir d, r, hplaced, by rw [hoff, mkDesc_descDir_descOff], hi⟩

/-- Below bit 12 a descriptor is a read of the register at that offset. -/
theorem descRow_of_lt {d : BitVec 13} (v : Word) (hd : d.toNat < 0x1000) :
    descRow d v = (regAt d.toNat).bind fun r => regInstr .read r v := by
  have hoff : descOff d = d.toNat := Nat.mod_eq_of_lt hd
  have hdir : descDir d = .read := if_neg (by omega)
  rw [descRow, hoff, hdir]

/-! ### Admitted descriptors -/

theorem regInstr_wellFormed {dir : Dir} {r : Reg} {v : Word} {i : Instr} (p : Params) (hplaced : r.Placed)
    (h : regInstr dir r v = some i) : i.wellFormed p = true := by
  cases dir <;> cases r <;> cases h
  case read.buf.refl j => exact decide_eq_true (hplaced j rfl)
  all_goals rfl

theorem descAdmitted_iff (d : BitVec 13) :
    descAdmitted d = true ↔
      d = 0x1000#13 ∨ d = 0x1008#13 ∨ (d.toNat % 4 = 0 ∧ 0x004 ≤ d.toNat ∧ d.toNat ≤ 0x02C) ∨
        (d.toNat % 4 = 0 ∧ 0x400 ≤ d.toNat ∧ d.toNat < 0x800) := by
  simp only [descAdmitted, Bool.or_eq_true, Bool.and_eq_true, beq_iff_eq, decide_eq_true_eq, or_assoc, and_assoc]

theorem descAdmitted_mkDesc_of_regInstr {dir : Dir} {r : Reg} {v : Word} {i : Instr} (hplaced : r.Placed)
    (h : regInstr dir r v = some i) : descAdmitted (mkDesc dir r.offset) = true := by
  cases dir <;> cases r <;> cases h
  case read.buf.refl j =>
    have hj := hplaced j rfl
    have hd : (mkDesc .read (Reg.buf j).offset).toNat = 0x400 + 4 * j := by
      simp only [mkDesc, Reg.offset, BitVec.toNat_ofNat]
      omega
    refine (descAdmitted_iff _).mpr (.inr (.inr (.inr ?_)))
    rw [hd]
    omega
  all_goals rfl

/-- The aligned offsets 0x004 to 0x02C all hold a register that can be read. -/
theorem isSome_read_of_low_offset {off : Nat} (v : Word) (halign : off % 4 = 0) (hlow : 0x004 ≤ off)
    (hhigh : off ≤ 0x02C) : ((regAt off).bind fun r => regInstr .read r v).isSome = true := by
  obtain ⟨w, rfl⟩ : ∃ w, off = 4 * w := ⟨off / 4, by omega⟩
  have hw1 : 1 ≤ w := by omega
  have hw2 : w ≤ 11 := by omega
  interval_cases w <;> rfl

/-- The aligned offsets of the BUF window hold its words. -/
theorem isSome_read_of_buf_offset {off : Nat} (v : Word) (halign : off % 4 = 0) (hlow : 0x400 ≤ off)
    (hhigh : off < 0x800) : ((regAt off).bind fun r => regInstr .read r v).isSome = true := by
  obtain ⟨i, rfl⟩ : ∃ i, off = (Reg.buf i).offset := ⟨(off - 0x400) / 4, by simp only [Reg.offset]; omega⟩
  simp only [Reg.offset] at hhigh
  rw [regAt_offset (.buf i) (Reg.placed_buf (by omega))]
  rfl

/-- The admitted descriptors are those with a row in the register map, whatever the data of a write. -/
theorem descAdmitted_eq_isSome_descRow (d : BitVec 13) (v : Word) : descAdmitted d = (descRow d v).isSome := by
  rw [Bool.eq_iff_iff]
  constructor
  · rw [descAdmitted_iff]
    rintro (rfl | rfl | ⟨halign, hlow, hhigh⟩ | ⟨halign, hlow, hhigh⟩)
    · rfl
    · rfl
    · rw [descRow_of_lt v (by omega)]
      exact isSome_read_of_low_offset v halign hlow hhigh
    · rw [descRow_of_lt v (by omega)]
      exact isSome_read_of_buf_offset v halign hlow hhigh
  · intro h
    obtain ⟨i, hi⟩ := Option.isSome_iff_exists.mp h
    obtain ⟨dir, r, hplaced, rfl, hr⟩ := descRow_spec hi
    exact descAdmitted_mkDesc_of_regInstr hplaced hr

theorem decodeDesc_of_not_admitted {d : BitVec 13} (v : Word) (h : descAdmitted d = false) :
    decodeDesc d v = .badAccess (.desc d v) := by
  have hrow : descRow d v = none := by simpa [descAdmitted_eq_isSome_descRow d v] using h
  rw [decodeDesc_eq_getD_descRow, hrow, Option.getD_none]

theorem decodeDesc_wellFormed (p : Params) (d : BitVec 13) (v : Word) : (decodeDesc d v).wellFormed p = true := by
  rw [decodeDesc_eq_getD_descRow]
  cases h : descRow d v with
  | some i =>
    obtain ⟨dir, r, hplaced, -, hr⟩ := descRow_spec h
    exact regInstr_wellFormed p hplaced hr
  | none => simp [Instr.wellFormed, descAdmitted_eq_isSome_descRow d v, h]

/-! ### Bus accesses (20_memory R63, R64) -/

theorem busAdmitted_iff (base addr size : Nat) : busAdmitted base addr size = true ↔ busInWindow base addr size := by
  simp only [busAdmitted, Bool.and_eq_true, beq_iff_eq, decide_eq_true_eq, and_assoc]

/-- An access the bus does not admit decodes to the bad access of itself. -/
theorem decodeAccess_load_of_not_admitted {base addr size : Nat} (h : busAdmitted base addr size = false) :
    decodeAccess base (.load addr size) = .badAccess (.load addr size) :=
  if_neg fun hw => by simp [(busAdmitted_iff _ _ _).mpr hw] at h

theorem decodeAccess_store_of_not_admitted {base addr : Nat} {bytes : List Byte}
    (h : busAdmitted base addr bytes.length = false) :
    decodeAccess base (.store addr bytes) = .badAccess (.store addr bytes) :=
  if_neg fun hw => by simp [(busAdmitted_iff _ _ _).mpr hw] at h

theorem decodeAccess_wellFormed (p : Params) (a : Access) : (decodeAccess p.base a).wellFormed p = true := by
  cases a with
  | desc d v => exact decodeDesc_wellFormed p d v
  | load addr size =>
    cases h : busAdmitted p.base addr size
    · rw [decodeAccess_load_of_not_admitted h]
      simp [Instr.wellFormed, h]
    · rw [decodeAccess, if_pos ((busAdmitted_iff _ _ _).mp h)]
      exact decodeDesc_wellFormed p _ _
  | store addr bytes =>
    cases h : busAdmitted p.base addr bytes.length
    · rw [decodeAccess_store_of_not_admitted h]
      simp [Instr.wellFormed, h]
    · rw [decodeAccess, if_pos ((busAdmitted_iff _ _ _).mp h)]
      exact decodeDesc_wellFormed p _ _

/-- The access of an aligned 4-byte load inside the window is that of its descriptor. -/
theorem decodeAccess_load_in_window {p : Params} {off : Nat} (hp : p.wf) (hoff : off < 0x1000) (halign : off % 4 = 0) :
    decodeAccess p.base (.load (p.base + off) 4) = decodeDesc (mkDesc .read off) 0 := by
  obtain ⟨-, -, -, -, -, hbase⟩ := hp
  rw [decodeAccess, if_pos (by omega), Nat.add_sub_cancel_left]

theorem decodeAccess_store_in_window {p : Params} {off : Nat} (v : Word) (hp : p.wf) (hoff : off < 0x1000)
    (halign : off % 4 = 0) :
    decodeAccess p.base (.store (p.base + off) (busBytes v)) = decodeDesc (mkDesc .write off) v := by
  obtain ⟨-, -, -, -, -, hbase⟩ := hp
  have hlen : (busBytes v).length = 4 := rfl
  rw [decodeAccess, if_pos (by omega), Nat.add_sub_cancel_left, busWord_busBytes]

theorem mkDesc_read {off : Nat} (h : off < 0x1000) : mkDesc .read off = BitVec.ofNat 13 off := by
  simp only [mkDesc, Nat.zero_add, Nat.mod_eq_of_lt h]

theorem mkDesc_write {off : Nat} (h : off < 0x1000) : mkDesc .write off = BitVec.ofNat 13 (0x1000 + off) := by
  simp only [mkDesc, Nat.mod_eq_of_lt h]

/-! ### Packets -/

theorem decodeCmd_wellFormed (p : Params) (w : Word) : (decodeCmd w).wellFormed p = true := by
  unfold decodeCmd
  split <;> rfl

theorem decodeEncoder_wellFormed (p : Params) (w : EncWord) : (decodeEncoder w).wellFormed p = true := by
  unfold decodeEncoder
  split <;> rfl

theorem decodeEvent_wellFormed {p : Params} {code : BitVec 4} {k : Word} {i : Instr} (h : decodeEvent code k = .ok i) :
    i.wellFormed p = true := by
  unfold decodeEvent at h
  split at h <;> cases h <;> rfl

theorem decode_readPacket {r : Reg} {i : Instr} (p : Params) (hplaced : r.Placed) (h : regInstr .read r 0 = some i) :
    decode p (readPacket r) = .ok i := by
  simp only [decode, readPacket, decodeAccess, decodeDesc_mkDesc .read r 0 hplaced, h, Option.getD_some]

theorem decode_writePacket {r : Reg} {v : Word} {i : Instr} (p : Params) (hplaced : r.Placed)
    (h : regInstr .write r v = some i) : decode p (writePacket r v) = .ok i := by
  simp only [decode, writePacket, decodeAccess, decodeDesc_mkDesc .write r v hplaced, h, Option.getD_some]

theorem decodeAccess_of_wellFormed_badAccess {p : Params} {a : Access} (h : (Instr.badAccess a).wellFormed p = true) :
    decodeAccess p.base a = .badAccess a := by
  cases a <;> rw [Instr.wellFormed, Bool.not_eq_true'] at h
  case desc d v => exact decodeDesc_of_not_admitted v h
  case load addr size => exact decodeAccess_load_of_not_admitted h
  case store addr bytes => exact decodeAccess_store_of_not_admitted h

/-- The unused event codes (R94). -/
theorem decodeEvent_unused {code : BitVec 4} (k : Word) (h : code.toNat = 0 ∨ 6 ≤ code.toNat) :
    decodeEvent code k = .error (.unusedEventCode code) := by
  unfold decodeEvent
  split
  case h_6 => rfl
  all_goals exact absurd h (by decide)

end Sys2Proof

namespace Sys2Proof.Machine

/-- Settles O3: commands, events and port words are their own rows of the decoder's tables, reads and writes go through
the register map, and a bad access is one that map and bus do not admit. -/
theorem decodeEncodeRoundTrip : Obligations.DecodeEncodeRoundTrip := by
  intro p i h
  cases i
  case wrCmd | wrCfg => exact decode_writePacket p nofun rfl
  case rdStatus | rdCfg | rdArr | rdDmaIdx | rdDutyHigh | rdDutyLow | rdMwAcc | rdCapDelta | rdCapCcr1 | rdCapCcr2
      | rdCnt =>
    exact decode_readPacket p nofun rfl
  case rdBuf j => exact decode_readPacket p (Reg.placed_buf (of_decide_eq_true h)) rfl
  case badAccess a => exact congrArg Except.ok (decodeAccess_of_wellFormed_badAccess h)
  all_goals rfl

/-- Settles O4, by the format of the packet. -/
theorem decodedInstructionsAreWellFormed : Obligations.DecodedInstructionsAreWellFormed := by
  intro p k i h
  cases k with
  | cmd w =>
    cases h
    exact decodeCmd_wellFormed p w
  | mmio a =>
    cases h
    exact decodeAccess_wellFormed p a
  | txQuery =>
    cases h
    rfl
  | event code k => exact decodeEvent_wellFormed h
  | encoder w =>
    cases h
    exact decodeEncoder_wellFormed p w

/-- Settles O8: a byte list in R64's order is `busBytes` of the word. -/
theorem busAccessUsesItsDescriptor : Obligations.BusAccessUsesItsDescriptor := by
  intro p off hp hoff halign
  refine ⟨?load, ?store, ?bytes⟩
  case load =>
    rw [← mkDesc_read hoff]
    exact congrArg Except.ok (decodeAccess_load_in_window hp hoff halign)
  case store =>
    rintro v bytes rfl
    rw [← mkDesc_write hoff]
    exact congrArg Except.ok (decodeAccess_store_in_window v hp hoff halign)
  case bytes =>
    intro s k hk
    interval_cases k <;> rfl

/-- Settles O5. -/
theorem specWordsDecode : Obligations.SpecWordsDecode := by
  intro p
  have hread2 : decode p (readPacket (.buf 2)) = .ok (.rdBuf 2) := decode_readPacket p (Reg.placed_buf (by decide)) rfl
  have hbad : decodeDesc 0x1004#13 0#32 = .badAccess (.desc 0x1004#13 0#32) := decodeDesc_of_not_admitted 0 rfl
  exact ⟨rfl, rfl, decode_writePacket (r := .cfg) p nofun rfl, decode_readPacket (r := .status) p nofun rfl, hread2,
    congrArg Except.ok hbad, rfl, rfl, rfl⟩

/-- A packet that is no instruction is refused by the step. -/
theorem step_of_refuse {s : State} {e : DecodeError} (hf : s.fault = false) (h : fetch s = .refuse e) :
    step s = .refused (refusalOf e) := by
  simp [step, stepOnce, hf, h]

/-- Settles O6: an event is no HOST slot, so it is fetched even while the feeder runs, and its decoding error is the
refusal. -/
theorem unusedEventCodesAreRefused : Obligations.UnusedEventCodesAreRefused := by
  intro s code k rest hf ha hcode
  have hdecode : decode s.params (.event code k) = .error (.unusedEventCode code) := decodeEvent_unused k hcode
  refine ⟨hdecode, step_of_refuse hf ?_⟩
  rw [fetch_of_packet_head ha fun _ => rfl]
  simp only [fetchPacket, hdecode]

/-! ### Packed registers (R86, R87) -/

/-- A bit of a register word, from its number: the bit `b` at place `k`. -/
theorem getLsbD_eq_of_toNat {w : Word} {k : Nat} {b : Bool} (h : w.toNat / 2 ^ k % 2 = b.toNat) : w.getLsbD k = b := by
  rw [BitVec.getLsbD, Nat.testBit_eq_decide_div_mod_eq, h]
  cases b <;> rfl

/-- A field of a register word, from its number: the `n` bits from place `k` up. -/
theorem toNat_extractLsb'_eq_of_toNat {w : Word} {k n c : Nat} (h : w.toNat / 2 ^ k % 2 ^ n = c) :
    (w.extractLsb' k n).toNat = c := by
  rw [BitVec.extractLsb'_toNat, Nat.shiftRight_eq_div_pow, h]

/-- Every field of STATUS stands at its bits as its code: the fields do not overlap and end below bit 22. -/
theorem State.statusWord_fields (s : State) :
    (s.statusWord.extractLsb' 0 3).toNat = s.tstate.code.toNat ∧ s.statusWord.getLsbD 3 = s.txComplete ∧
      (s.statusWord.extractLsb' 4 2).toNat = s.mwState.code.toNat ∧ s.statusWord.getLsbD 6 = s.mwPol ∧
      s.statusWord.getLsbD 7 = s.fault ∧ (s.statusWord.extractLsb' 8 4).toNat = s.faultCode.code.toNat ∧
      (s.statusWord.extractLsb' 12 2).toNat = s.lastResult.code.toNat ∧ s.statusWord.getLsbD 14 = s.feedIe ∧
      s.statusWord.getLsbD 15 = s.htPend ∧ s.statusWord.getLsbD 16 = s.tcPend ∧ s.statusWord.getLsbD 17 = s.busy ∧
      s.statusWord.getLsbD 18 = s.txRun ∧ s.statusWord.getLsbD 19 = s.out ∧ s.statusWord.getLsbD 20 = s.mirrorActive ∧
      s.statusWord.getLsbD 21 = s.mirror ∧ s.statusWord.extractLsb' 22 10 = 0#10 := by
  have hw := congrArg BitVec.toNat (State.statusWord.eq_def s)
  rw [BitVec.toNat_ofNat] at hw
  have htstate := s.tstate.code.isLt
  have htxComplete := s.txComplete.toNat_lt
  have hmwState := s.mwState.code.isLt
  have hmwPol := s.mwPol.toNat_lt
  have hfault := s.fault.toNat_lt
  have hfaultCode := s.faultCode.code.isLt
  have hlastResult := s.lastResult.code.isLt
  have hfeedIe := s.feedIe.toNat_lt
  have hhtPend := s.htPend.toNat_lt
  have htcPend := s.tcPend.toNat_lt
  have hbusy := s.busy.toNat_lt
  have htxRun := s.txRun.toNat_lt
  have hout := s.out.toNat_lt
  have hmirrorActive := s.mirrorActive.toNat_lt
  have hmirror := s.mirror.toNat_lt
  exact ⟨toNat_extractLsb'_eq_of_toNat (by omega), getLsbD_eq_of_toNat (by omega),
    toNat_extractLsb'_eq_of_toNat (by omega), getLsbD_eq_of_toNat (by omega), getLsbD_eq_of_toNat (by omega),
    toNat_extractLsb'_eq_of_toNat (by omega), toNat_extractLsb'_eq_of_toNat (by omega),
    getLsbD_eq_of_toNat (by omega), getLsbD_eq_of_toNat (by omega), getLsbD_eq_of_toNat (by omega),
    getLsbD_eq_of_toNat (by omega), getLsbD_eq_of_toNat (by omega), getLsbD_eq_of_toNat (by omega),
    getLsbD_eq_of_toNat (by omega), getLsbD_eq_of_toNat (by omega),
    BitVec.eq_of_toNat_eq (toNat_extractLsb'_eq_of_toNat (by simp only [BitVec.toNat_ofNat]; omega))⟩

/-- Settles O21: the fields of `State.statusWord_fields`, with the numbers of the codes. -/
theorem statusReadFields : Obligations.StatusReadFields := by
  intro s hready
  obtain ⟨htstate, htxComplete, hmwState, hmwPol, hfault, hfaultCode, hlastResult, hflags⟩ := s.statusWord_fields
  refine ⟨s.statusWord, exec_of_hostReady rfl hready, ?tstate, htxComplete, ?mwState, hmwPol, hfault, ?faultCode,
    ?lastResult, hflags⟩
  case tstate =>
    rw [htstate]
    cases s.tstate <;> rfl
  case mwState =>
    rw [hmwState]
    cases s.mwState <;> rfl
  case faultCode =>
    rw [hfaultCode]
    cases s.faultCode <;> rfl
  case lastResult =>
    rw [hlastResult]
    cases s.lastResult <;> rfl

/-- CFG reads what its two bits were written with (43_host_access R196). -/
theorem State.cfgWord_writeCfg (s : State) (v : Word) : (s.writeCfg v).cfgWord = v &&& 0x00000003#32 := by
  have hmask : v.toNat &&& 3 % 2 ^ 32 = v.toNat % 2 ^ 2 := Nat.and_two_pow_sub_one_eq_mod v.toNat 2
  apply BitVec.eq_of_toNat_eq
  simp only [State.cfgWord, State.writeCfg, BitVec.getLsbD, Nat.toNat_testBit, BitVec.toNat_and, BitVec.toNat_ofNat,
    hmask]
  omega

/-- Settles O23. -/
theorem cfgReadsBackWhatWasWritten : Obligations.CfgReadsBackWhatWasWritten := by
  intro s v hready
  refine ⟨s.writeCfg v, exec_of_hostReady rfl hready, rfl, ?_⟩
  rw [exec_of_hostReady (s := s.writeCfg v) rfl hready, bodyOf, State.answer, State.cfgWord_writeCfg]

end Sys2Proof.Machine
end

section
/-! PROOFS. The statements of spec/40_normalizer.md: the reload encoding, the generator's transition, and what the pull
of each event writes. Each pull is reduced to the generator's result, and each result to the writes of the fill. -/

namespace Sys2Proof.Machine

/-! ### The reload encoding (R120, R121) -/

theorem encReload_toNat_of_two_le {v : Word} (h : 2 ≤ v.toNat) : (encReload v).toNat = v.toNat - 1 := by
  have h0 : v ≠ 0 := by bv_omega
  have h1 : v ≠ 1 := by bv_omega
  rw [encReload, if_neg h0, if_neg h1]
  bv_omega

/-- Settles O51: the words 0 and 1 are their own codes, and from 2 on the code is one less than the run. -/
theorem reloadEncoding : Obligations.ReloadEncoding := by
  intro v
  refine ⟨?_, ?_, encReload_toNat_of_two_le, ?_, ?_⟩
  · rintro rfl
    rfl
  · rintro rfl
    rfl
  · intro h0
    by_cases h1 : v = 1
    · subst h1
      decide
    · rw [encReload_toNat_of_two_le] <;> bv_omega
  · intro h
    rw [encReload_toNat_of_two_le h]
    omega

/-! ### The rule of each event (R111 to R119) -/

section
variable {g : Gen} {w : EncWord} {l : Level}

/-- LEVEL in Idle at the current level (R113). -/
theorem Gen.level_idle_same (d : Word) (hs : g.state = .idle) (hl : l = g.pol) : g.level l d = .skip g := by
  simp [Gen.level, hs, hl]

/-- LEVEL in Idle at the other level (R114). -/
theorem Gen.level_idle_change (d : Word) (hs : g.state = .idle) (hl : l ≠ g.pol) :
    g.level l d = .skip ⟨.running, d, l⟩ := by simp [Gen.level, hs, hl]

/-- LEVEL in Running at the current level (R115). -/
theorem Gen.level_running_same (d : Word) (hs : g.state = .running) (hl : l = g.pol) :
    g.level l d = .skip { g with acc := g.acc + d } := by simp [Gen.level, hs, hl]

/-- LEVEL in Running at the other level (R116). -/
theorem Gen.level_running_change (d : Word) (hs : g.state = .running) (hl : l ≠ g.pol) :
    g.level l d = .emit g.acc ⟨.running, d, l⟩ := by simp [Gen.level, hs, hl]

/-- WAIT (R117). -/
theorem Gen.wait_of_event (guardTime : Word) (hs : g.state ≠ .resetPending) :
    g.wait guardTime = .emit (g.acc + guardTime) ⟨g.state, 0, !g.pol⟩ := by
  unfold Gen.wait
  split
  · contradiction
  · rfl

/-- RESET (R118). -/
theorem Gen.reset_of_event (hs : g.state ≠ .resetPending) : g.reset = .emit g.acc ⟨.resetPending, 0, false⟩ := by
  unfold Gen.reset
  split
  · contradiction
  · rfl

/-- The reserved event (R119). -/
theorem Gen.reserved_of_event (hs : g.state ≠ .resetPending) : g.reserved = .bad := by
  unfold Gen.reserved
  split
  · contradiction
  · rfl

/-- With a reset pending every event's rule is the same (R111). -/
theorem Gen.delta_of_resetPending (guardTime : Word) (w : EncWord) (hs : g.state = .resetPending) :
    g.delta guardTime w = .emit 0 g := by
  unfold Gen.delta
  split
  · simp [Gen.level, hs]
  · simp [Gen.wait, hs]
  · simp [Gen.reset, hs]
  · simp [Gen.reserved, hs]

theorem Gen.delta_of_level (guardTime : Word) (hk : w.kind = 0b00#2) :
    g.delta guardTime w = g.level w.level w.duration := by simp [Gen.delta, hk]

theorem Gen.delta_of_wait (guardTime : Word) (hk : w.kind = 0b01#2) : g.delta guardTime w = g.wait guardTime := by
  simp [Gen.delta, hk]

theorem Gen.delta_of_reset (guardTime : Word) (hk : w.kind = 0b10#2) : g.delta guardTime w = g.reset := by
  simp [Gen.delta, hk]

theorem Gen.delta_of_reserved (guardTime : Word) (hlevel : w.kind ≠ 0b00#2) (hwait : w.kind ≠ 0b01#2)
    (hreset : w.kind ≠ 0b10#2) : g.delta guardTime w = g.reserved := by
  unfold Gen.delta
  split
  · contradiction
  · contradiction
  · contradiction
  · rfl

/-- LEVEL emits only at a level change in Running. -/
theorem Gen.of_level_eq_emit {d v : Word} {g' : Gen} (hs : g.state ≠ .resetPending) (h : g.level l d = .emit v g') :
    g.state = .running ∧ l ≠ g.pol ∧ g' = ⟨.running, d, l⟩ := by
  cases hstate : g.state with
  | resetPending => exact absurd hstate hs
  | idle =>
    by_cases hl : l = g.pol
    · simp [Gen.level_idle_same d hstate hl] at h
    · simp [Gen.level_idle_change d hstate hl] at h
  | running =>
    by_cases hl : l = g.pol
    · simp [Gen.level_running_same d hstate hl] at h
    · rw [Gen.level_running_change d hstate hl] at h
      cases h
      exact ⟨rfl, hl, rfl⟩

/-- An emission that no reset makes keeps the state and flips the polarity; only a wait and a level change in Running
make one. -/
theorem Gen.of_delta_eq_emit {guardTime v : Word} {g' : Gen} (h : g.delta guardTime w = .emit v g')
    (hs : g.state ≠ .resetPending) (hreset : w.kind ≠ 0b10#2) :
    g'.pol = !g.pol ∧ g'.state = g.state ∧
      (w.kind = 0b01#2 ∨ (w.kind = 0b00#2 ∧ g.state = .running ∧ w.level ≠ g.pol)) := by
  unfold Gen.delta at h
  split at h
  case h_1 hk =>
    obtain ⟨hrun, hl, rfl⟩ := Gen.of_level_eq_emit hs h
    exact ⟨Bool.eq_not_of_ne hl, hrun.symm, .inr ⟨hk, hrun, hl⟩⟩
  case h_2 hk =>
    rw [Gen.wait_of_event guardTime hs] at h
    cases h
    exact ⟨rfl, rfl, .inl hk⟩
  case h_3 hk => exact absurd hk hreset
  case h_4 =>
    rw [Gen.reserved_of_event hs] at h
    cases h

end

/-- Settles O52: the rule of each kind of event, and the emissions read backwards. -/
theorem emissionsAlternateInLevel : Obligations.EmissionsAlternateInLevel := by
  intro g guardTime w
  refine ⟨Gen.delta_of_resetPending guardTime w, ?_, ?_, ?_, fun _ _ => Gen.of_delta_eq_emit⟩
  · intro hs hk
    rw [Gen.delta_of_reset guardTime hk, Gen.reset_of_event hs]
  · intro hs hk
    rw [Gen.delta_of_wait guardTime hk, Gen.wait_of_event guardTime hs]
  · intro hs hk hl
    rw [Gen.delta_of_level guardTime hk, Gen.level_running_change w.duration hs hl, Bool.eq_not_of_ne hl]

/-! ### What the fill writes (41_tx_pipeline R147, R148) -/

theorem State.applyGen_emit_zero (s : State) (g : Gen) : s.applyGen (.emit 0 g) = (s.setGen g).writeZero := rfl

theorem State.applyGen_emit_run (s : State) (g : Gen) {v : Word} (hv : v ≠ 0) :
    s.applyGen (.emit v g) = (s.setGen g).writeValue v := if_neg hv

/-- A run that does not take the last word of the range leaves the fill running. -/
theorem State.writeValue_inside {s : State} (v : Word) (hpos : s.fillPos + 1 ≠ s.fillEnd) :
    s.writeValue v = s.putValue v := if_neg hpos

/-- The terminator ends a refill. -/
theorem State.writeZero_refill {s : State} (hk : s.fillKind = .refill) :
    s.writeZero = { s.putZero with fillActive := false } := State.finishFill_refill hk

/-! ### A pull as the generator's result (R112) -/

theorem enabledOf_decodeEncoder (w : EncWord) (s : State) : enabledOf (decodeEncoder w) s = s.takesEvent := by
  unfold decodeEncoder
  split <;> rfl

/-- The instruction of a port word has the generator's rule for that word as its body. -/
theorem bodyOf_decodeEncoder (w : EncWord) (s : State) :
    bodyOf (decodeEncoder w) s = s.pulled.applyGen (s.gen.delta s.params.guardTime w) := by
  unfold decodeEncoder
  split
  case h_1 hk => rw [Gen.delta_of_level _ hk, bodyOf]
  case h_2 hk => rw [Gen.delta_of_wait _ hk, bodyOf]
  case h_3 hk => rw [Gen.delta_of_reset _ hk, bodyOf]
  case h_4 hlevel hwait hreset => rw [Gen.delta_of_reserved _ hlevel hwait hreset, bodyOf]

section
variable {i : Instr} {s : State}

theorem State.takesEvent_of_event (hm : s.mwState ≠ .resetPending) : s.takesEvent = s.fillActive := by
  simp [State.takesEvent, hm]

/-- With no reset pending every pull is enabled exactly while the feeder fills. -/
theorem enabledOf_of_instrIsPull (hi : instrIsPull i = true) (hm : s.mwState ≠ .resetPending) :
    enabledOf i s = s.fillActive := by
  cases i <;> cases hi
  case pull => rfl
  all_goals exact State.takesEvent_of_event hm

/-- A pull inside a fill, with no reset pending. -/
theorem exec_of_instrIsPull (hi : instrIsPull i = true) (hf : s.fault = false) (ha : s.fillActive = true)
    (hm : s.mwState ≠ .resetPending) : exec i s = .next (bodyOf i s) := by
  rw [exec_eq_takeStep]
  exact takeStep_enabled hf ((enabledOf_of_instrIsPull hi hm).trans ha)

/-- A pull that emits hands the run to the fill, whichever event emitted it (R116 to R118). -/
theorem exec_of_emitsBy {v : Word} {g : Gen} (hf : s.fault = false) (ha : s.fillActive = true)
    (h : s.emitsBy i v g) : exec i s = .next (s.pulled.applyGen (.emit v g)) := by
  obtain ⟨l, d, rfl, hm, hl, rfl, rfl⟩ | ⟨rfl, hm, rfl, rfl⟩ | ⟨rfl, hm, rfl, rfl⟩ := h
  · rw [exec_of_instrIsPull rfl hf ha (by simp [hm]), bodyOf, Gen.level_running_change (g := s.gen) d hm hl]
    rfl
  · rw [exec_of_instrIsPull rfl hf ha hm, bodyOf, Gen.wait_of_event (g := s.gen) _ hm]
    rfl
  · rw [exec_of_instrIsPull rfl hf ha hm, bodyOf, Gen.reset_of_event (g := s.gen) hm]
    rfl

/-- A run emitted before the last word of the range: the event is pulled, the generator moves, the run is written. -/
theorem exec_of_emitsBy_inside {v : Word} {g : Gen} (hf : s.fault = false) (ha : s.fillActive = true) (hv : v ≠ 0)
    (hpos : s.fillPos + 1 ≠ s.fillEnd) (h : s.emitsBy i v g) :
    exec i s = .next ((s.pulled.setGen g).putValue v) := by
  rw [exec_of_emitsBy hf ha h, State.applyGen_emit_run _ g hv,
    State.writeValue_inside (s := s.pulled.setGen g) v hpos]

end

/-- Settles O40: both sides are one step, with the same condition and the same body. -/
theorem pullTakesTheNextEvent : Obligations.PullTakesTheNextEvent := by
  rintro s w hm rfl
  rw [exec_eq_takeStep, exec_eq_takeStep, enabledOf_decodeEncoder, bodyOf_decodeEncoder, State.takesEvent_of_event hm,
    bodyOf, State.pullStep_of_event hm]
  rfl

/-- Settles O46: an emitted run of length 0 is written by `writeZero`, which ends the refill. -/
theorem zeroRunWritesTheTerminator : Obligations.ZeroRunWritesTheTerminator := by
  intro i s g hf ha hk h
  rw [exec_of_emitsBy hf ha h, State.applyGen_emit_zero, State.writeZero_refill (s := s.pulled.setGen g) hk]
  rfl

/-- Settles O41: the pull is `writeZero` alone. -/
theorem pullWithResetPendingEndsTheRefill : Obligations.PullWithResetPendingEndsTheRefill := by
  intro s hf ha hk hm
  have hexec : exec .pull s = .next s.pullStep := takeStep_enabled hf ha
  rw [hexec, State.pullStep_of_resetPending hm, State.writeZero_refill hk]
  rfl

/-- Settles O42: the generator skips in each of the three cases. -/
theorem levelCollectsARun : Obligations.LevelCollectsARun := by
  intro s l d hf ha
  refine ⟨fun hm hl => ?_, fun hm hl => ?_, fun hm hl => ?_⟩ <;>
    rw [exec_of_instrIsPull rfl hf ha (by simp [hm]), bodyOf]
  · rw [Gen.level_idle_same (g := s.gen) d hm hl]
    rfl
  · rw [Gen.level_idle_change (g := s.gen) d hm hl]
    rfl
  · rw [Gen.level_running_same (g := s.gen) d hm hl]
    rfl

/-- Settles O43: the emission of R116, inside the range. -/
theorem levelChangeEmitsTheRun : Obligations.LevelChangeEmitsTheRun := by
  intro s l d hf ha hm hl hv hpos
  have hemits : s.emitsBy (.level l d) s.mwAcc ⟨s.mwState, d, l⟩ := .inl ⟨l, d, rfl, hm, hl, rfl, by rw [hm]⟩
  exact exec_of_emitsBy_inside hf ha hv hpos hemits

/-- Settles O44: the emission of R117, inside the range. -/
theorem waitEmitsTheGuardedRun : Obligations.WaitEmitsTheGuardedRun := by
  intro s v hf ha hm hrun hv hpos
  have hemits : s.emitsBy .wait v ⟨s.mwState, 0, !s.mwPol⟩ := .inr (.inl ⟨rfl, hm, hrun, rfl⟩)
  exact exec_of_emitsBy_inside hf ha hv hpos hemits

/-- Settles O45: the emission of R118, inside the range. -/
theorem resetFlushesTheRun : Obligations.ResetFlushesTheRun := by
  intro s hf ha hm hv hpos
  have hemits : s.emitsBy .reset s.mwAcc ⟨.resetPending, 0, false⟩ := .inr (.inr ⟨rfl, hm, rfl, rfl⟩)
  exact exec_of_emitsBy_inside hf ha hv hpos hemits

/-- Settles O50: the transition has no result, and the raise is the only effect besides the pull. -/
theorem reservedEventFaults : Obligations.ReservedEventFaults := by
  intro s hf ha hm
  rw [exec_of_instrIsPull rfl hf ha hm, bodyOf, Gen.reserved_of_event (g := s.gen) hm]
  exact congrArg _ (State.raise_of_ok (s := s.pulled) .badEncoderEvent hf)

end Sys2Proof.Machine
end

section
/-! PROOFS. The statements of spec/41_tx_pipeline.md: the transmit commands, UPDATE, REFILL_BEGIN, the turns that pass,
and the end of a fill. UPDATE rests on `transfer_of_written`, the end of a pre-fill on `arm_eq`. -/

namespace Sys2Proof.Machine

/-! ### A step where it is enabled and where it is not -/

theorem exec_of_enabled {i : Instr} {s : State} (hf : s.fault = false) (he : enabledOf i s = true) :
    exec i s = .next (bodyOf i s) := by
  rw [exec_eq_takeStep]
  exact takeStep_enabled hf he

theorem exec_of_disabled {i : Instr} {s : State} (hf : s.fault = false) (he : enabledOf i s = false) :
    exec i s = .next s := by
  rw [exec_eq_takeStep]
  exact takeStep_held hf he

/-! ### START_TX and the completion query (R131 to R133, R138) -/

/-- Settles O22. -/
theorem completionQueryValue : Obligations.CompletionQueryValue := by
  intro s hs
  rw [exec_of_hostReady rfl hs, bodyOf]
  simp [State.answer, State.txComplete]

/-- Settles O29. -/
theorem startTxRejected : Obligations.StartTxRejected := by
  intro s hs hno
  have hn : ¬(s.tstate = .idle ∧ s.regmode = true) := by simpa [imp_iff_not_or] using hno
  rw [exec_of_hostReady rfl hs, bodyOf, State.startTx, if_neg hn]

/-- Settles O30. -/
theorem startTxBeginsThePrefill : Obligations.StartTxBeginsThePrefill := by
  intro s hs hidle hmode
  rw [exec_of_hostReady rfl hs, bodyOf, State.startTx, if_pos ⟨hidle, hmode⟩]
  rfl

/-! ### STOP_TX (R135 to R137, R158, R159) -/

theorem State.stopTx_ok {s : State} (ht : s.tstate = .asyncTx) (hg : s.chipGood = true) :
    s.stopTx = (s.afterChip .idle).closeTx := by simp [State.stopTx, ht, hg]

theorem State.stopTx_timeout {s : State} (ht : s.tstate = .asyncTx) (hg : s.chipGood = false) :
    s.stopTx = (s.afterChip .idle).raise .chipTimeout := by simp [State.stopTx, ht, hg]

theorem State.stopTx_wrongState {s : State} (ht : s.tstate ≠ .asyncTx) : s.stopTx = s.raise .stopWrongState :=
  if_neg ht

/-- A STOP_TX that does not fault has closed the session. -/
theorem State.stopTx_of_no_fault {s : State} (hf : s.stopTx.fault = false) :
    s.stopTx = (s.afterChip .idle).closeTx := by
  by_cases ht : s.tstate = .asyncTx
  · cases hg : s.chipGood
    · simp [State.stopTx_timeout ht hg] at hf
    · exact State.stopTx_ok ht hg
  · simp [State.stopTx_wrongState ht] at hf

/-- Settles O31: the three outcomes of `State.stopTx`. -/
theorem stopTxOutcomes : Obligations.StopTxOutcomes := by
  intro s hs
  refine ⟨fun ht hg => ?_, fun ht hg => ?_, fun ht => ?_⟩ <;> rw [exec_of_hostReady rfl hs, bodyOf]
  · rw [State.stopTx_ok ht hg]
    simp [State.closeTx, State.afterChip, hg, chipAnswer]
  · rw [State.stopTx_timeout ht hg, State.raise_of_ok (s := s.afterChip .idle) _ hs.1]
    simp [State.afterChip, hg, chipAnswer]
  · rw [State.stopTx_wrongState ht, State.raise_of_ok _ hs.1]

/-- Settles O60: the closed session is IDLE, and the feeder did not run when the host had its step. -/
theorem quietAfterStop : Obligations.QuietAfterStop := by
  intro s t hs hexec hf
  rw [exec_of_hostReady rfl hs] at hexec
  obtain rfl : s.stopTx = t := Host.Outcome.next.inj hexec
  rw [State.stopTx_of_no_fault hf]
  obtain ⟨hok, hbusy⟩ := hs
  have hclosed : (s.afterChip .idle).closeTx.fault = false := hok
  exact ⟨exec_of_disabled hclosed rfl, exec_of_disabled hclosed rfl, exec_of_disabled hclosed hbusy⟩

theorem dutyPct_mul_total {h l : Word} (hne : h.toNat + l.toNat ≠ 0) :
    dutyPct h l * ((h.toNat + l.toNat : Nat) : Rat) = ((h.toNat * 100 : Nat) : Rat) := by
  have hq : (h.toNat : Rat) + l.toNat ≠ 0 := mod_cast hne
  rw [dutyPct, if_neg hne, Rat.mkRat_eq_div]
  push_cast
  exact div_mul_cancel₀ _ hq

/-- Settles O58: with equal buckets the quotient times 2h is 100h, and h is not 0. -/
theorem dutyPercentage : Obligations.DutyPercentage := by
  intro h l
  refine ⟨fun hz => if_pos hz, dutyPct_mul_total, ?_⟩
  rintro rfl hne
  have hpos : h.toNat ≠ 0 := by simpa [← BitVec.toNat_inj] using hne
  have hquot := dutyPct_mul_total (h := h) (l := h) (by omega)
  push_cast at hquot
  apply mul_right_cancel₀ (Nat.cast_ne_zero.mpr hpos : (h.toNat : Rat) ≠ 0)
  linarith

/-! ### The conditions of UPDATE and REFILL_BEGIN (R145, R150, R151) -/

theorem State.updateDue_iff (s : State) :
    s.updateDue = true ↔ s.tstate = .asyncTx ∧ s.txRun = true ∧ s.arr ≠ 0 := by
  simp [State.updateDue]

theorem State.needsRefill_iff (s : State) :
    s.needsRefill = true ↔
      (s.dmaIdx = 0 ∧ (s.htPend = true ∨ (s.fillActive = true ∧ s.fillKind = .refill ∧ s.fillHalf = .first))) ∨
        (s.dmaIdx = s.params.half ∧
          (s.tcPend = true ∨ (s.fillActive = true ∧ s.fillKind = .refill ∧ s.fillHalf = .second))) := by
  simp [State.needsRefill, State.dirty, and_assoc]

theorem State.holds_iff (s : State) : s.holds = true ↔ s.params.policy = .hold ∧ s.needsRefill = true := by
  simp [State.holds]

theorem State.refillEnabled_iff (s : State) :
    s.refillEnabled = true ↔ s.tstate = .asyncTx ∧ s.fillActive = false ∧ (s.htPend = true ∨ s.tcPend = true) := by
  simp [State.refillEnabled, and_assoc]

/-! ### UPDATE (R150 to R156) -/

theorem exec_update_passes {s : State} (hf : s.fault = false) (h : s.updateDue = false ∨ s.holds = true) :
    exec .update s = .next s :=
  exec_of_disabled hf (by obtain h | h := h <;> simp [enabledOf, State.updateEnabled, h])

/-- An UPDATE that is due at a clean place transfers a word, under either policy. -/
theorem exec_update_clean {s : State} (hf : s.fault = false) (hd : s.updateDue = true) (hn : s.needsRefill = false) :
    exec .update s = .next s.transfer := by
  have he : enabledOf .update s = true := by simp [enabledOf, State.updateEnabled, hd, State.holds, hn]
  rw [exec_of_enabled hf he, bodyOf, State.updateStep, if_neg (by simp [hn])]

theorem State.driveMirror_eq (s : State) (l : Level) :
    s.driveMirror l = { s with
      mirror := if s.mirrorActive = true then l else s.mirror
      trace := s.trace ++ if s.mirrorActive = true then [.mirror l] else [] } := by
  unfold State.driveMirror
  split
  · rfl
  · rw [List.append_nil]

theorem State.requestUpdate_eq (s : State) (i : Nat) :
    s.requestUpdate i = { s with
      htPend := s.htPend || (s.feedIe && decide (i + 1 = s.params.half))
      tcPend := s.tcPend || (s.feedIe && decide (i + 1 = s.params.n)) } := by
  simp [State.requestUpdate, Bool.and_comm, beq_eq_decide]

section
variable {s : State} {i : Nat} {w : Word}

theorem State.bufWord_of_written (h : Memory.read s.buf i = some w) : s.bufWord i = w := by simp [State.bufWord, h]

theorem State.bufWord_of_unwritten (h : Memory.read s.buf i = none) : s.bufWord i = Config.draw s.draws := by
  simp [State.bufWord, State.drawn, h]

/-- A written word costs no draw. -/
theorem State.afterBufWord_of_written (h : Memory.read s.buf i = some w) : s.afterBufWord i = s := by
  simp [State.afterBufWord, h]

/-- The transfer of a written word, field by field. -/
theorem State.transfer_of_written (h : Memory.read s.buf s.dmaIdx = some w) :
    s.transfer = { s with
      trace := s.trace ++ [.seg s.out (s.arr.toNat + 1)] ++
        if s.mirrorActive = true then [.mirror (nextLevel s.out w)] else []
      out := nextLevel s.out w
      mirror := if s.mirrorActive = true then nextLevel s.out w else s.mirror
      arr := w
      dmaIdx := (s.dmaIdx + 1) % s.params.n
      htPend := s.htPend || (s.feedIe && decide (s.dmaIdx + 1 = s.params.half))
      tcPend := s.tcPend || (s.feedIe && decide (s.dmaIdx + 1 = s.params.n)) } := by
  unfold State.transfer
  dsimp only
  rw [State.afterBufWord_of_written (by simpa using h), State.bufWord_of_written h, State.driveMirror_eq,
    State.requestUpdate_eq]
  rfl

end

/-- Settles O35: the place is clean, so the UPDATE is a transfer. -/
theorem updateTransfersAWord : Obligations.UpdateTransfersAWord := by
  rintro s w lvl hf ht hr ha hn hw rfl
  rw [exec_update_clean hf (s.updateDue_iff.mpr ⟨ht, hr, ha⟩) hn, State.transfer_of_written hw]
  rfl

/-- Settles O36: the same transfer, of the next draw. -/
theorem updateOfAnUnwrittenWord : Obligations.UpdateOfAnUnwrittenWord := by
  intro s hf ht hr ha hn hnone
  have hw : s.bufWord s.dmaIdx = Config.draw s.draws := State.bufWord_of_unwritten hnone
  refine ⟨s.transfer, exec_update_clean hf (s.updateDue_iff.mpr ⟨ht, hr, ha⟩) hn, ?_, ?_, s.transfer_buf, ?_, ?_⟩
  · simp [State.transfer, hw]
  · simp [State.transfer, hnone]
  · simp [State.transfer, hw, nextLevel]
  · simp [State.transfer]

/-- Settles O37: the hold rule is off, so the step is enabled, and it raises the fault. -/
theorem updateUnderrunFaults : Obligations.UpdateUnderrunFaults := by
  intro s hf ht hr ha hp hplace
  have hn : s.needsRefill = true := s.needsRefill_iff.mpr hplace
  have hd : s.updateDue = true := s.updateDue_iff.mpr ⟨ht, hr, ha⟩
  have he : enabledOf .update s = true := by simp [enabledOf, State.updateEnabled, hd, State.holds, hp]
  rw [exec_of_enabled hf he, bodyOf, State.updateStep, if_pos ⟨hp, hn⟩, State.raise_of_ok _ hf]

/-! ### REFILL_BEGIN (R145) -/

theorem State.refillHalf_eq (s : State) :
    s.refillHalf = if s.htPend = true ∧ s.tcPend = true then (if s.dmaIdx < s.params.half then .first else .second)
      else if s.htPend = true then .first else .second := by
  simp [State.refillHalf]

/-- Settles O39: the half of the statement is `State.refillHalf`. -/
theorem refillBeginTakesTheDueHalf : Obligations.RefillBeginTakesTheDueHalf := by
  intro s h hf ht ha hreq hh
  have he : enabledOf .refillBegin s = true := s.refillEnabled_iff.mpr ⟨ht, ha, hreq⟩
  rw [← s.refillHalf_eq] at hh
  rw [exec_of_enabled hf he, bodyOf, State.refillBegin, ← hh]
  cases h
  · simp [halfStart]
  · simp [halfStart, two_mul]

/-! ### Turns that pass -/

theorem enabledOf_of_event_pull {i : Instr} (s : State) (hi : instrIsPull i = true) (hne : i ≠ .pull) :
    enabledOf i s = s.takesEvent := by
  cases i <;> cases hi
  case pull => exact absurd rfl hne
  all_goals rfl

theorem enabledOf_pull_of_no_fill {i : Instr} {s : State} (hi : instrIsPull i = true) (ha : s.fillActive = false) :
    enabledOf i s = false := by
  by_cases hp : i = .pull
  · exact hp ▸ ha
  · rw [enabledOf_of_event_pull s hi hp, State.takesEvent, ha, Bool.false_and]

/-- Settles O38, clause by clause: in each the condition of the step is false. -/
theorem disabledStepsLeaveTheState : Obligations.DisabledStepsLeaveTheState := by
  intro s hf
  refine ⟨fun hb i hi => ?_, fun h => ?_, fun hp hplace => ?_, fun h => ?_, fun ha i hi => ?_, fun hm i hi hne => ?_⟩
  · exact exec_of_disabled hf (by rw [enabledOf_of_instrIsHost s hi, hb, Bool.not_true])
  · refine exec_update_passes hf (.inl (Bool.eq_false_iff.mpr fun hd => ?_))
    obtain ⟨ht, hr, ha⟩ := s.updateDue_iff.mp hd
    exact h.elim (· ht) (·.elim (by simp [hr]) ha)
  · exact exec_update_passes hf (.inr (s.holds_iff.mpr ⟨hp, s.needsRefill_iff.mpr hplace⟩))
  · refine exec_of_disabled hf (Bool.eq_false_iff.mpr fun he => ?_)
    obtain ⟨ht, ha, hreq⟩ := s.refillEnabled_iff.mp he
    obtain hreq | hreq := hreq <;> simp [ht, ha, hreq] at h
  · exact exec_of_disabled hf (enabledOf_pull_of_no_fill hi ha)
  · refine exec_of_disabled hf ?_
    rw [enabledOf_of_event_pull s hi hne]
    simp [State.takesEvent, hm]

/-! ### The end of a fill (R147 to R149) -/

section
variable {s : State} (v : Word)

theorem State.writeValue_last (hpos : s.fillPos + 1 = s.fillEnd) : s.writeValue v = (s.putValue v).finishFill :=
  if_pos hpos

theorem State.writeValue_prefill_last (hk : s.fillKind = .prefill) (hpos : s.fillPos + 1 = s.fillEnd) :
    s.writeValue v = State.arm { s.putValue v with fillActive := false } := by
  rw [State.writeValue_last v hpos]
  exact State.finishFill_prefill hk

theorem State.writeZero_prefill (hk : s.fillKind = .prefill) :
    s.writeZero = State.arm { s.putZero with fillActive := false } := State.finishFill_prefill hk

end

/-- Settles O47: the emitted run takes the last word, and the end of a refill only ends the fill. -/
theorem lastWordEndsTheRefill : Obligations.LastWordEndsTheRefill := by
  intro i s v g hf ha hk hpos hv h
  rw [exec_of_emitsBy hf ha h, State.applyGen_emit_run _ g hv, State.writeValue_last (s := s.pulled.setGen g) v hpos,
    State.finishFill_refill (s := (s.pulled.setGen g).putValue v) hk]
  rfl

/-! ### Arming (R134) -/

theorem State.armTimer_eq (s : State) :
    s.armTimer = { s with
      out := false, arr := s.params.lead, dmaIdx := 0, htPend := false, tcPend := false, feedIe := !s.fillZero
      mirrorActive := s.mirrorEn
      mirror := if s.mirrorEn = true then false else s.mirror
      trace := s.trace ++ if s.mirrorEn = true then [.mirror false] else []
      txRun := true } := by
  rw [State.armTimer, State.driveMirror_eq]

/-- Arming, field by field, for both answers of the chip. -/
theorem State.arm_eq {s : State} (hf : s.fault = false) :
    s.arm = { s with
      out := false, arr := s.params.lead, dmaIdx := 0, htPend := false, tcPend := false, feedIe := !s.fillZero
      mirrorActive := s.mirrorEn
      mirror := if s.mirrorEn = true then false else s.mirror
      txRun := true
      chipIn := s.chipIn.tail, chips := s.chips + 1
      trace := s.trace ++ (if s.mirrorEn = true then [.mirror false] else []) ++
        if s.chipGood = true then [.chip .tx .ok] else [.chip .tx .timeout, .fault .chipTimeout]
      tstate := if s.chipGood = true then .asyncTx else s.tstate
      lastResult := if s.chipGood = true then .ok else s.lastResult
      fault := !s.chipGood
      faultCode := if s.chipGood = true then s.faultCode else .chipTimeout } := by
  have hgood := s.armTimer_chipGood
  cases hg : s.chipGood <;> rw [hg] at hgood
  · rw [State.arm_timeout hgood, State.raise_of_ok _ (by simp [State.armTimer, hf]), State.afterChip, hgood,
      State.armTimer_eq]
    simp [chipAnswer]
  · rw [State.arm_ok hgood, State.afterChip, hgood, State.armTimer_eq]
    simp [chipAnswer, hf]

/-! ### The pull that ends a pre-fill (R134, R149) -/

/-- The update is what a fill can do before its end: an event pulled, the generator moved, a word and its bucket
written, the fields of the fill and the requests. Arming reads nothing of these but `fillZero`. -/
structure State.Feeds (s t : State) : Prop where
  eq : t = { s with
    encIn := t.encIn, encPos := t.encPos, mwState := t.mwState, mwAcc := t.mwAcc, mwPol := t.mwPol, buf := t.buf,
    dutyHigh := t.dutyHigh, dutyLow := t.dutyLow, fillActive := t.fillActive, fillPos := t.fillPos,
    fillZero := t.fillZero, feedIe := t.feedIe, htPend := t.htPend, tcPend := t.tcPend }

theorem State.Feeds.fault {s t : State} (h : s.Feeds t) : t.fault = s.fault := by rw [h.eq]

theorem State.Feeds.chipGood {s t : State} (h : s.Feeds t) : t.chipGood = s.chipGood := by
  rw [h.eq]
  rfl

/-- In a pre-fill the generator's result leaves the fill running, or the timer is armed. -/
theorem State.applyGen_prefill {s : State} (r : GenResult) (hk : s.fillKind = .prefill) :
    (s.applyGen r).fillActive = s.fillActive ∨ ∃ a, s.Feeds a ∧ s.applyGen r = a.arm := by
  cases r with
  | skip g => exact .inl rfl
  | bad => exact .inl (s.raise_fillActive _)
  | emit v g =>
    by_cases hv : v = 0
    · rw [hv, State.applyGen_emit_zero, State.writeZero_prefill (s := s.setGen g) hk]
      exact .inr ⟨_, ⟨rfl⟩, rfl⟩
    · rw [State.applyGen_emit_run _ _ hv]
      by_cases hpos : s.fillPos + 1 = s.fillEnd
      · rw [State.writeValue_prefill_last (s := s.setGen g) v hk hpos]
        exact .inr ⟨_, ⟨rfl⟩, rfl⟩
      · rw [State.writeValue_inside (s := s.setGen g) v hpos]
        exact .inl rfl

/-- Every pull hands a result of the generator to the fill, most of them with an event pulled first. -/
theorem bodyOf_of_instrIsPull {i : Instr} (s : State) (hi : instrIsPull i = true) :
    ∃ a r, (a = s ∨ a = s.pulled) ∧ bodyOf i s = a.applyGen r := by
  cases i <;> cases hi
  case pull =>
    simp only [bodyOf, State.pullStep]
    split
    · exact ⟨s, _, .inl rfl, rfl⟩
    · exact ⟨s.pulled, _, .inr rfl, rfl⟩
  all_goals exact ⟨s.pulled, _, .inr rfl, rfl⟩

theorem bodyOf_pull_prefill {i : Instr} {s : State} (hi : instrIsPull i = true) (hk : s.fillKind = .prefill) :
    (bodyOf i s).fillActive = s.fillActive ∨ ∃ a, s.Feeds a ∧ bodyOf i s = a.arm := by
  obtain ⟨a, r, rfl | rfl, hbody⟩ := bodyOf_of_instrIsPull s hi <;> rw [hbody]
  · exact State.applyGen_prefill r hk
  · refine (State.applyGen_prefill (s := s.pulled) r hk).imp_right ?_
    rintro ⟨a, hfeeds, harm⟩
    exact ⟨a, ⟨hfeeds.eq⟩, harm⟩

/-- Settles O48: the pull that ends the fill ran, and it has armed the timer. -/
theorem endOfPrefillArmsTheTimer : Obligations.EndOfPrefillArmsTheTimer := by
  intro i s t hi ha hk hexec hdone
  obtain ⟨hf, ⟨-, rfl⟩ | ⟨-, rfl⟩⟩ := exec_next hexec
  case inr => exact absurd ha (by simp [hdone])
  obtain hsame | ⟨a, hfeeds, harm⟩ := bodyOf_pull_prefill hi hk
  · exact absurd ha (by simp [← hsame, hdone])
  · rw [harm, State.arm_eq (hfeeds.fault.trans hf), hfeeds.chipGood, hfeeds.eq]
    refine ⟨rfl, rfl, rfl, rfl, rfl, rfl, rfl, fun hm => if_pos hm, rfl, fun hg => ?_, fun hg => ?_⟩ <;> simp [hg]

/-- The terminator ends a pre-fill, and arming keeps what it wrote. -/
theorem State.writeZero_prefill_fields {s : State} (hf : s.fault = false) (hk : s.fillKind = .prefill) :
    s.writeZero.fillActive = false ∧ s.writeZero.fillZero = true ∧ s.writeZero.feedIe = false ∧
      s.writeZero.dutyHigh = s.dutyHigh ∧ s.writeZero.dutyLow = s.dutyLow ∧ s.writeZero.fillPos = s.fillPos ∧
      s.writeZero.encPos = s.encPos ∧ s.writeZero.encIn = s.encIn ∧ s.writeZero.gen = s.gen := by
  rw [State.writeZero_prefill hk, State.arm_eq (s := { s.putZero with fillActive := false }) hf]
  and_intros <;> rfl

/-- A run ends a pre-fill exactly at the last word of the range, and arming keeps what it wrote. -/
theorem State.writeValue_prefill_fields {s : State} (v : Word) (hf : s.fault = false) (ha : s.fillActive = true)
    (hk : s.fillKind = .prefill) :
    (s.writeValue v).fillActive = decide (s.fillPos + 1 ≠ s.fillEnd) ∧ (s.writeValue v).fillZero = s.fillZero ∧
      (s.writeValue v).dutyHigh = (if s.fillPos % 2 = 0 then s.dutyHigh + v else s.dutyHigh) ∧
      (s.writeValue v).dutyLow = (if s.fillPos % 2 = 0 then s.dutyLow else s.dutyLow + v) ∧
      (s.writeValue v).fillPos = s.fillPos + 1 ∧ (s.writeValue v).encPos = s.encPos ∧
      (s.writeValue v).encIn = s.encIn ∧ (s.writeValue v).gen = s.gen := by
  by_cases hpos : s.fillPos + 1 = s.fillEnd
  · rw [State.writeValue_prefill_last v hk hpos, State.arm_eq (s := { s.putValue v with fillActive := false }) hf]
    exact ⟨(decide_eq_false (not_not_intro hpos)).symm, rfl, rfl, rfl, rfl, rfl, rfl, rfl⟩
  · rw [State.writeValue_inside v hpos]
    exact ⟨ha.trans (decide_eq_true hpos).symm, rfl, rfl, rfl, rfl, rfl, rfl, rfl⟩

/-- Settles O49: the terminator and the run each from their own lemma, in the state the pull hands to the fill. -/
theorem pullEndsThePrefillAtItsLastWord : Obligations.PullEndsThePrefillAtItsLastWord := by
  intro s hf ha hk
  constructor
  · intro i v g h
    refine ⟨_, exec_of_emitsBy hf ha h, ?_⟩
    by_cases hv : v = 0
    · rw [hv, State.applyGen_emit_zero]
      obtain ⟨hdone, hzero, hie, hhigh, hlow, hpos, henc, hin, hgen⟩ :=
        State.writeZero_prefill_fields (s := s.pulled.setGen g) hf hk
      exact ⟨henc, hin, hgen, fun _ => ⟨hdone, hzero, hie, State.writeZero_buf _, hhigh, hlow, hpos⟩,
        fun hne => absurd rfl hne⟩
    · rw [State.applyGen_emit_run _ g hv]
      obtain ⟨hdone, hzero, hhigh, hlow, hpos, henc, hin, hgen⟩ :=
        State.writeValue_prefill_fields (s := s.pulled.setGen g) v hf ha hk
      exact ⟨henc, hin, hgen, fun h0 => absurd h0 hv,
        fun _ => ⟨hdone, hzero, State.writeValue_buf _ v, hhigh, hlow, hpos⟩⟩
  · intro hm
    have he : enabledOf .pull s = true := ha
    have hexec : exec .pull s = .next s.writeZero := by
      rw [exec_of_enabled hf he, bodyOf, State.pullStep_of_resetPending hm]
    obtain ⟨hdone, hzero, hie, hhigh, hlow, hpos, henc, hin, hgen⟩ := State.writeZero_prefill_fields hf hk
    exact ⟨_, hexec, henc, hin, hgen, hdone, hzero, hie, s.writeZero_buf, hhigh, hlow, hpos⟩

end Sys2Proof.Machine
end

section
/-! PROOFS. The statements of spec/42_rx_capture.md: the receive commands, the edge events, and the separation of the
receive fields from the transmit fields. The edges rest on `edgeFall_eq` and `edgeRise_eq`, which say them field by
field. -/

namespace Sys2Proof.Machine

/-! ### START_RX and STOP_RX (R171 to R174) -/

section
variable {s : State}

theorem State.startRx_ok (ht : s.tstate = .idle) (hg : s.chipGood = true) :
    s.startRx = { s.openRx.afterChip .rx with tstate := .asyncRx, lastResult := .ok } := by simp [State.startRx, ht, hg]

theorem State.startRx_timeout (ht : s.tstate = .idle) (hg : s.chipGood = false) :
    s.startRx = (s.openRx.afterChip .rx).raise .chipTimeout := by simp [State.startRx, ht, hg]

theorem State.startRx_rejected (ht : s.tstate ≠ .idle) : s.startRx = { s with lastResult := .rejected } := if_neg ht

theorem State.stopRx_ok (ht : s.tstate = .asyncRx) (hg : s.chipGood = true) :
    s.stopRx = { s.afterChip .idle with mirrorActive := false, tstate := .idle, lastResult := .ok } := by
  simp [State.stopRx, ht, hg]

theorem State.stopRx_timeout (ht : s.tstate = .asyncRx) (hg : s.chipGood = false) :
    s.stopRx = (s.afterChip .idle).raise .chipTimeout := by simp [State.stopRx, ht, hg]

theorem State.stopRx_wrongState (ht : s.tstate ≠ .asyncRx) : s.stopRx = s.raise .stopWrongState := if_neg ht

/-- The chip's next answer does not depend on what START_RX writes first. -/
theorem State.openRx_chipGood (s : State) : s.openRx.chipGood = s.chipGood := rfl

/-- A good answer to a request other than the self test is OK. -/
theorem State.afterChip_ok {q : ChipReq} (hq : q ≠ .selfTest) (hg : s.chipGood = true) :
    s.afterChip q =
      { s with chipIn := s.chipIn.tail, chips := s.chips + 1, trace := s.trace ++ [.chip q .ok] } := by
  cases q <;> simp [State.afterChip, hg, chipAnswer] at hq ⊢

/-- A request other than the self test that is not answered times out. -/
theorem State.afterChip_timeout {q : ChipReq} (hq : q ≠ .selfTest) (hg : s.chipGood = false) :
    s.afterChip q =
      { s with chipIn := s.chipIn.tail, chips := s.chips + 1, trace := s.trace ++ [.chip q .timeout] } := by
  cases q <;> simp [State.afterChip, hg, chipAnswer] at hq ⊢

/-- A request that times out, with the fault it raises. -/
theorem State.afterChip_raise_timeout {q : ChipReq} (hf : s.fault = false) (hq : q ≠ .selfTest)
    (hg : s.chipGood = false) :
    (s.afterChip q).raise .chipTimeout =
      { s with
        chipIn := s.chipIn.tail, chips := s.chips + 1, fault := true, faultCode := .chipTimeout
        trace := s.trace ++ [.chip q .timeout, .fault .chipTimeout] } := by
  rw [State.raise_of_ok (s := s.afterChip q) _ hf, State.afterChip_timeout hq hg]
  simp

end

/-- Settles O32: the three outcomes of `State.startRx`. -/
theorem startRxOutcomes : Obligations.StartRxOutcomes := by
  intro s hs
  refine ⟨fun ht hg => ?_, fun ht hg => ?_, fun ht => ?_⟩ <;> rw [exec_of_hostReady rfl hs, bodyOf]
  · rw [State.startRx_ok ht hg, State.afterChip_ok (s := s.openRx) (q := .rx) nofun (s.openRx_chipGood.trans hg)]
    rfl
  · rw [State.startRx_timeout ht hg, State.afterChip_raise_timeout (s := s.openRx) (q := .rx) hs.1 nofun
      (s.openRx_chipGood.trans hg)]
    rfl
  · rw [State.startRx_rejected ht]

/-- Settles O33: the three outcomes of `State.stopRx`. -/
theorem stopRxOutcomes : Obligations.StopRxOutcomes := by
  intro s hs
  refine ⟨fun ht hg => ?_, fun ht hg => ?_, fun ht => ?_⟩ <;> rw [exec_of_hostReady rfl hs, bodyOf]
  · rw [State.stopRx_ok ht hg, State.afterChip_ok (q := .idle) nofun hg]
  · rw [State.stopRx_timeout ht hg, State.afterChip_raise_timeout (q := .idle) hs.1 nofun hg]
  · rw [State.stopRx_wrongState ht, State.raise_of_ok _ hs.1]

/-! ### The capture (R179) -/

section
variable {s : State} {k : Word}

theorem State.captureFits_iff : s.captureFits k = true ↔ s.cnt.toNat + k.toNat < s.params.rxWrap := decide_eq_true_iff

theorem State.captured_of_fits (h : s.captureFits k = true) : s.captured k = s.cnt + k := if_pos h

theorem State.captured_of_wraps (h : s.captureFits k = false) : s.captured k = s.drawnBelow s.params.rxWrap := by
  simp [State.captured, h]

theorem State.afterCapture_eq (s : State) (k : Word) :
    s.afterCapture k = { s with draws := if s.captureFits k = true then s.draws else s.draws + 1 } := by
  unfold State.afterCapture
  split <;> rfl

/-- A draw from [0, n) lies below n (10_state R51). -/
theorem State.drawnBelow_lt (s : State) {n : Nat} (hpos : 0 < n) (hn : n ≤ 2 ^ 32) : (s.drawnBelow n).toNat < n := by
  have hlt : s.drawn.toNat % n < n := Nat.mod_lt _ hpos
  rw [State.drawnBelow, BitVec.toNat_ofNat, Nat.mod_eq_of_lt (hlt.trans_le hn)]
  exact hlt

end

/-! ### The edge events (R175, R176, R180, R182) -/

theorem State.edgeFall_eq (s : State) (k : Word) :
    s.edgeFall k = { s with
      ccr1 := s.captured k, delta := s.captured k, cnt := s.captured k
      mirror := if s.mirrorActive = true then false else s.mirror
      trace := s.trace ++ (if s.mirrorActive = true then [.mirror false] else []) ++ [.cap true (s.captured k)]
      draws := if s.captureFits k = true then s.draws else s.draws + 1 } := by
  rw [State.edgeFall, State.driveMirror_eq, State.afterCapture_eq]
  rfl

theorem State.edgeRise_eq (s : State) (k : Word) :
    s.edgeRise k = { s with
      ccr2 := s.captured k, cnt := 0
      mirror := if s.mirrorActive = true then true else s.mirror
      trace := s.trace ++ (if s.mirrorActive = true then [.mirror true] else []) ++
        [.cap false (s.captured k - s.delta)]
      draws := if s.captureFits k = true then s.draws else s.draws + 1 } := by
  rw [State.edgeRise, State.driveMirror_eq, State.afterCapture_eq]
  rfl

/-- An edge is enabled exactly in a receive session. -/
theorem enabledOf_of_instrIsEdge {i : Instr} (s : State) (hi : instrIsEdge i = true) :
    enabledOf i s = decide (s.tstate = .asyncRx) := by
  cases i <;> cases hi <;> exact beq_eq_decide _ _

theorem exec_edge_of_asyncRx {i : Instr} {s : State} (hi : instrIsEdge i = true) (hf : s.fault = false)
    (ht : s.tstate = .asyncRx) : exec i s = .next (bodyOf i s) :=
  exec_of_enabled hf ((enabledOf_of_instrIsEdge s hi).trans (decide_eq_true ht))

theorem exec_edge_passes {i : Instr} {s : State} (hi : instrIsEdge i = true) (hf : s.fault = false)
    (ht : s.tstate ≠ .asyncRx) : exec i s = .next s :=
  exec_of_disabled hf ((enabledOf_of_instrIsEdge s hi).trans (decide_eq_false ht))

/-- Settles O53: below the period the captured value is the count, and no draw is taken. -/
theorem edgeFallCaptures : Obligations.EdgeFallCaptures := by
  intro s k hf ht hk
  have hfits : s.captureFits k = true := State.captureFits_iff.mpr hk
  rw [exec_edge_of_asyncRx rfl hf ht, bodyOf, State.edgeFall_eq, State.captured_of_fits hfits, if_pos hfits]

/-- Settles O54: below the period the captured value is the count, and no draw is taken. -/
theorem edgeRiseCaptures : Obligations.EdgeRiseCaptures := by
  intro s k hf ht hk
  have hfits : s.captureFits k = true := State.captureFits_iff.mpr hk
  rw [exec_edge_of_asyncRx rfl hf ht, bodyOf, State.edgeRise_eq, State.captured_of_fits hfits, if_pos hfits]

/-- Settles O56: the condition of both edges is false. -/
theorem edgesOutsideReceiveChangeNothing : Obligations.EdgesOutsideReceiveChangeNothing :=
  fun _ _ hf ht => ⟨exec_edge_passes rfl hf ht, exec_edge_passes rfl hf ht⟩

/-- Settles O55: at or above the period both edges capture the draw from [0, RX_WRAP). -/
theorem wrappedCaptureStaysBelowThePeriod : Obligations.WrappedCaptureStaysBelowThePeriod := by
  rintro s k hf ⟨-, -, -, hlow, hhigh, -⟩ ht hwrap
  have hfits : ¬s.captureFits k = true := fun h => (State.captureFits_iff.mp h).not_ge hwrap
  refine ⟨s.captured k, ?_, ⟨_, exec_edge_of_asyncRx rfl hf ht, ?_⟩, ⟨_, exec_edge_of_asyncRx rfl hf ht, ?_⟩⟩
  · rw [State.captured_of_wraps (Bool.eq_false_iff.mpr hfits)]
    exact s.drawnBelow_lt (by omega) hhigh
  · rw [bodyOf, State.edgeFall_eq]
    exact ⟨rfl, rfl, rfl, if_neg hfits, _, rfl⟩
  · rw [bodyOf, State.edgeRise_eq]
    exact ⟨rfl, rfl, rfl, if_neg hfits, _, rfl⟩

/-- A fall below the period, as far as the next edge sees it. -/
theorem exec_edgeFall_counts {s : State} {k : Word} (hf : s.fault = false) (ht : s.tstate = .asyncRx)
    (hk : s.cnt.toNat + k.toNat < s.params.rxWrap) :
    ∃ t, exec (.edgeFall k) s = .next t ∧ t.fault = false ∧ t.tstate = .asyncRx ∧ t.params = s.params ∧
      t.cnt = s.cnt + k ∧ t.delta = s.cnt + k ∧ ∃ a, t.trace = s.trace ++ a ++ [.cap true (s.cnt + k)] :=
  ⟨_, edgeFallCaptures s k hf ht hk, hf, ht, rfl, rfl, rfl, _, rfl⟩

/-- A rise below the period, as far as the next edge sees it. -/
theorem exec_edgeRise_restarts {s : State} {k : Word} (hf : s.fault = false) (ht : s.tstate = .asyncRx)
    (hk : s.cnt.toNat + k.toNat < s.params.rxWrap) :
    ∃ t, exec (.edgeRise k) s = .next t ∧ t.fault = false ∧ t.tstate = .asyncRx ∧ t.params = s.params ∧
      t.cnt = 0 ∧ ∃ a, t.trace = s.trace ++ a ++ [.cap false (s.cnt + k - s.delta)] :=
  ⟨_, edgeRiseCaptures s k hf ht hk, hf, ht, rfl, rfl, _, rfl⟩

/-- Settles O57: the rise finds the count `l` above the fall's capture, and restarts it at 0 for the second fall. -/
theorem alternatingEdgesReportElapsedTicks : Obligations.AlternatingEdgesReportElapsedTicks := by
  rintro s k l m hf ⟨-, -, -, -, hhigh, -⟩ ht hkl hm
  have hk : s.cnt.toNat + k.toNat < s.params.rxWrap := by omega
  have hsum : (s.cnt + k).toNat = s.cnt.toNat + k.toNat := BitVec.toNat_add_of_lt (hk.trans_le hhigh)
  obtain ⟨t, hfall, hft, htt, hpt, hct, hdt, -⟩ := exec_edgeFall_counts hf ht hk
  obtain ⟨u, hrise, hfu, htu, hpu, hcu, a, hau⟩ :=
    exec_edgeRise_restarts (k := l) hft htt (by rw [hct, hsum, hpt]; exact hkl)
  obtain ⟨v, hfall', -, -, -, -, -, b, hbv⟩ :=
    exec_edgeFall_counts (k := m) hfu htu (by rw [hcu, hpu, hpt]; simpa using hm)
  refine ⟨t, u, v, a, b, hfall, hrise, hfall', ?_, ?_⟩
  · rw [hau, hct, hdt, add_sub_cancel_left]
  · rw [hbv, hcu, zero_add]

/-! ### The receive fields under transmit steps -/

/-- The receive fields: the count and the capture registers (10_state R42 to R44). -/
def State.captureFields (s : State) : Word × Word × Word × Word := (s.cnt, s.delta, s.ccr1, s.ccr2)

theorem State.raise_captureFields (s : State) (c : FaultCode) : (s.raise c).captureFields = s.captureFields := by
  simp [State.captureFields]

theorem State.armTimer_captureFields (s : State) : s.armTimer.captureFields = s.captureFields := by
  rw [State.armTimer_eq]
  rfl

theorem State.arm_captureFields (s : State) : s.arm.captureFields = s.captureFields := by
  rw [← s.armTimer_captureFields]
  unfold State.arm
  dsimp only
  split
  · rfl
  · exact State.raise_captureFields _ _

theorem State.finishFill_captureFields (s : State) : s.finishFill.captureFields = s.captureFields := by
  unfold State.finishFill
  split
  · exact State.arm_captureFields _
  · rfl

theorem State.writeValue_captureFields (s : State) (v : Word) : (s.writeValue v).captureFields = s.captureFields := by
  unfold State.writeValue
  dsimp only
  split
  · exact State.finishFill_captureFields _
  · rfl

theorem State.applyGen_captureFields (s : State) (r : GenResult) : (s.applyGen r).captureFields = s.captureFields := by
  cases r with
  | skip g => rfl
  | bad => exact s.raise_captureFields _
  | emit v g =>
    unfold State.applyGen
    dsimp only
    split
    · exact State.finishFill_captureFields _
    · exact State.writeValue_captureFields _ v

theorem State.transfer_captureFields (s : State) : s.transfer.captureFields = s.captureFields := by
  simp [State.captureFields, State.transfer]

theorem State.updateStep_captureFields (s : State) : s.updateStep.captureFields = s.captureFields := by
  unfold State.updateStep
  split
  · exact s.raise_captureFields _
  · exact s.transfer_captureFields

theorem bodyOf_pull_captureFields {i : Instr} (s : State) (hi : instrIsPull i = true) :
    (bodyOf i s).captureFields = s.captureFields := by
  obtain ⟨a, r, rfl | rfl, hbody⟩ := bodyOf_of_instrIsPull s hi <;> rw [hbody]
  · exact a.applyGen_captureFields r
  · exact s.pulled.applyGen_captureFields r

theorem bodyOf_transmit_captureFields {i : Instr} (s : State)
    (hi : i = .update ∨ i = .refillBegin ∨ instrIsPull i = true) : (bodyOf i s).captureFields = s.captureFields := by
  obtain rfl | rfl | hi := hi
  · exact s.updateStep_captureFields
  · rfl
  · exact bodyOf_pull_captureFields s hi

/-! ### The transmit fields under edges -/

/-- The update is what an edge can do: the capture fields, the mirror, the record and the draw of a wrapped count. -/
structure State.Captures (s t : State) : Prop where
  eq : t = { s with
    ccr1 := t.ccr1, ccr2 := t.ccr2, delta := t.delta, cnt := t.cnt, mirror := t.mirror, trace := t.trace,
    draws := t.draws }

theorem bodyOf_edge_captures {i : Instr} (s : State) (hi : instrIsEdge i = true) : s.Captures (bodyOf i s) := by
  cases i <;> cases hi <;> rw [bodyOf]
  case edgeFall k =>
    rw [State.edgeFall_eq]
    exact ⟨rfl⟩
  case edgeRise k =>
    rw [State.edgeRise_eq]
    exact ⟨rfl⟩

/-- Settles O18: a turn that passes changes nothing, and the bodies of both kinds of step keep to their side. -/
theorem transmitAndReceiveStateAreSeparate : Obligations.TransmitAndReceiveStateAreSeparate := by
  intro i s t hexec
  obtain ⟨-, ⟨-, rfl⟩ | ⟨-, rfl⟩⟩ := exec_next hexec
  · refine ⟨fun hi => ?_, fun hi => (bodyOf_edge_captures s hi).eq⟩
    simpa [State.captureFields] using bodyOf_transmit_captureFields s hi
  · exact ⟨fun _ => ⟨rfl, rfl, rfl, rfl⟩, fun _ => rfl⟩

end Sys2Proof.Machine
end

section
/-! PROOFS. The statements of spec/43_host_access.md: register reads, the accesses that fault, commands by a write to
CMD, INIT, and the host slots that wait for the feeder. The bad accesses inside the window rest on
`exec_decodeDesc_read_bad` and `exec_decodeDesc_write_bad`, the waiting slots on `step_agenda`. -/

namespace Sys2Proof.Machine

/-! ### Register reads (R197 to R206) -/

section
variable {s : State}

/-- A register defined in one transceiver state only: its field there, a draw elsewhere (20_memory R76). -/
theorem State.answerOrDraw_of_tstate (s : State) (m : TState) (v : Word) :
    s.answerOrDraw (s.tstate == m) v = if s.tstate = m then s.answer v else s.afterDraw.answer s.drawn := by
  simp [State.answerOrDraw]

theorem State.answerOrDrawBelow_of_tstate (s : State) (m : TState) (v : Word) (n : Nat) :
    s.answerOrDrawBelow (s.tstate == m) v n =
      if s.tstate = m then s.answer v else s.afterDraw.answer (s.drawnBelow n) := by
  simp [State.answerOrDrawBelow]

/-- A capture register reads its field in ASYNC_RX and a draw elsewhere (R202 to R204). -/
theorem exec_capture_read {i : Instr} {v : Word} (hs : s.hostReady) (hi : instrIsHost i = true)
    (hbody : bodyOf i s = s.answerOrDraw (s.tstate == .asyncRx) v) :
    exec i s = .next (if s.tstate = .asyncRx then s.answer v else s.afterDraw.answer s.drawn) := by
  rw [exec_of_hostReady hi hs, hbody, State.answerOrDraw_of_tstate]

theorem State.readBuf_of_written {i : Nat} {w : Word} (ht : s.tstate = .asyncTx) (hw : Memory.read s.buf i = some w) :
    s.readBuf i = s.answer w := by
  rw [State.readBuf, if_pos ht, State.afterBufWord_of_written hw, State.bufWord_of_written hw]

/-- Outside ASYNC_TX, and for a word no fill of the session wrote, the read is a draw (20_memory R76, R77). -/
theorem State.readBuf_of_draw {i : Nat} (h : s.tstate ≠ .asyncTx ∨ Memory.read s.buf i = none) :
    s.readBuf i = s.afterDraw.answer s.drawn := by
  unfold State.readBuf
  split
  case isTrue ht =>
    have hnone : Memory.read s.buf i = none := h.resolve_left (not_not_intro ht)
    simp [State.afterBufWord, State.bufWord, hnone]
  case isFalse => rfl

theorem exec_rdBuf_inside {i : Nat} (hs : s.hostReady) (hi : i < s.params.n) :
    exec (.rdBuf i) s = .next (s.readBuf i) := by
  rw [exec_of_hostReady rfl hs, bodyOf, if_pos hi]

theorem exec_rdBuf_outside {i : Nat} (hs : s.hostReady) (hi : s.params.n ≤ i) :
    exec (.rdBuf i) s = .next (s.raise .badAccess) := by
  rw [exec_of_hostReady rfl hs, bodyOf, if_neg (Nat.not_lt.mpr hi)]

theorem exec_badAccess (hs : s.hostReady) (a : Access) : exec (.badAccess a) s = .next (s.raise .badAccess) :=
  exec_of_hostReady rfl hs

end

/-- Settles O24: the value DMA_IDX reads is the index in ASYNC_TX and a draw below N elsewhere. -/
theorem timerReads : Obligations.TimerReads := by
  intro s hs hp hidx
  obtain ⟨hhalf, hhalf_le, -⟩ := hp
  have hpos : 0 < s.params.n := by omega
  have hn : s.params.n ≤ 2 ^ 32 := by simp only [Params.n]; omega
  refine ⟨?arr, ?dmaIdx⟩
  case arr =>
    rw [exec_of_hostReady rfl hs, bodyOf, State.answerOrDraw_of_tstate]
    rfl
  case dmaIdx =>
    by_cases ht : s.tstate = .asyncTx
    · have hv : (BitVec.ofNat 32 s.dmaIdx).toNat = s.dmaIdx := by
        rw [BitVec.toNat_ofNat, Nat.mod_eq_of_lt (hidx.trans_le hn)]
      refine ⟨BitVec.ofNat 32 s.dmaIdx, hv.trans_lt hidx, fun _ => hv, ?_⟩
      rw [exec_of_hostReady rfl hs, bodyOf, State.answerOrDrawBelow_of_tstate, if_pos ht, if_pos ht]
      rfl
    · refine ⟨s.drawnBelow s.params.n, s.drawnBelow_lt hpos hn, fun h => absurd h ht, ?_⟩
      rw [exec_of_hostReady rfl hs, bodyOf, State.answerOrDrawBelow_of_tstate, if_neg ht, if_neg ht]
      rfl

/-- Settles O25. -/
theorem dutyAndAccumulatorReads : Obligations.DutyAndAccumulatorReads :=
  fun _ hs => ⟨exec_of_hostReady rfl hs, exec_of_hostReady rfl hs, exec_of_hostReady rfl hs⟩

/-- Settles O26: each capture read is `exec_capture_read` of its field. -/
theorem captureReads : Obligations.CaptureReads := by
  intro s hs
  have hdelta : exec .rdCapDelta s = _ := exec_capture_read hs rfl rfl
  have hccr1 : exec .rdCapCcr1 s = _ := exec_capture_read hs rfl rfl
  have hccr2 : exec .rdCapCcr2 s = _ := exec_capture_read hs rfl rfl
  refine ⟨fun ht => ?_, fun ht i hi => ?_, exec_of_hostReady rfl hs⟩
  · rw [hdelta, hccr1, hccr2, if_pos ht, if_pos ht, if_pos ht]
    exact ⟨rfl, rfl, rfl⟩
  · obtain rfl | rfl | rfl := hi
    · rw [hdelta, if_neg ht]; rfl
    · rw [hccr1, if_neg ht]; rfl
    · rw [hccr2, if_neg ht]; rfl

/-- Settles O27. -/
theorem bufReads : Obligations.BufReads := by
  intro s i hs
  refine ⟨fun hi ht w hw => ?_, fun hi h => ?_, fun hi => ?_⟩
  · rw [exec_rdBuf_inside hs hi, State.readBuf_of_written ht hw]
    rfl
  · rw [exec_rdBuf_inside hs hi, State.readBuf_of_draw h]
    rfl
  · rw [exec_rdBuf_outside hs hi, State.raise_of_ok _ hs.1]

/-! ### Accesses that fault (R207) -/

section
variable {s : State}

/-- A read of an aligned offset that is neither a value register's nor that of one of the N buffer words. -/
theorem exec_decodeDesc_read_bad {off : Nat} (v : Word) (hs : s.hostReady) (hoff : off < 0x1000) (halign : off % 4 = 0)
    (hlow : ¬(0x004 ≤ off ∧ off ≤ 0x02C)) (hbuf : ¬(0x400 ≤ off ∧ off < 0x400 + 4 * s.params.n)) :
    exec (decodeDesc (mkDesc .read off) v) s = .next (s.raise .badAccess) := by
  by_cases hwindow : 0x400 ≤ off ∧ off < 0x800
  · obtain ⟨i, rfl⟩ : ∃ i, off = (Reg.buf i).offset := ⟨(off - 0x400) / 4, by simp only [Reg.offset]; omega⟩
    simp only [Reg.offset] at hbuf hwindow
    rw [decodeDesc_mkDesc .read (.buf i) v (Reg.placed_buf (by omega))]
    exact exec_rdBuf_outside hs (by omega)
  · have hd : (mkDesc .read off).toNat = off := by
      rw [mkDesc_read hoff, BitVec.toNat_ofNat]
      omega
    have hbad : descAdmitted (mkDesc .read off) = false := by
      rw [Bool.eq_false_iff, Ne, descAdmitted_iff, hd, BitVec.toNat_eq, BitVec.toNat_eq, hd]
      simp only [BitVec.toNat_ofNat]
      omega
    rw [decodeDesc_of_not_admitted v hbad]
    exact exec_badAccess hs _

/-- A write of an offset other than that of CMD or CFG. -/
theorem exec_decodeDesc_write_bad {off : Nat} (v : Word) (hs : s.hostReady) (hoff : off < 0x1000)
    (hcmd : off ≠ 0x000) (hcfg : off ≠ 0x008) :
    exec (decodeDesc (mkDesc .write off) v) s = .next (s.raise .badAccess) := by
  have hd : (mkDesc .write off).toNat = 0x1000 + off := by
    rw [mkDesc_write hoff, BitVec.toNat_ofNat]
    omega
  have hbad : descAdmitted (mkDesc .write off) = false := by
    rw [Bool.eq_false_iff, Ne, descAdmitted_iff, hd, BitVec.toNat_eq, BitVec.toNat_eq, hd]
    simp only [BitVec.toNat_ofNat]
    omega
  rw [decodeDesc_of_not_admitted v hbad]
  exact exec_badAccess hs _

end

/-- Settles O7: an access the bus does not admit (20_memory R63) is the bad access of itself, and one it admits is that
of the descriptor of its offset. -/
theorem everyBadAccessFaults : Obligations.EveryBadAccessFaults := by
  refine ⟨fun s a hs => ?any, fun s addr size hs hp h => ⟨_, rfl, ?load⟩, fun s addr bytes hs hp h => ⟨_, rfl, ?store⟩⟩
    <;> rw [← State.raise_of_ok .badAccess hs.1]
  case any => exact exec_badAccess hs a
  case load =>
    obtain ⟨-, -, -, -, -, hbase⟩ := hp
    by_cases hw : busInWindow s.params.base addr size
    · rw [decodeAccess, if_pos hw]
      exact exec_decodeDesc_read_bad 0 hs (by omega) (by omega) (by omega) (by omega)
    · rw [decodeAccess, if_neg hw]
      exact exec_badAccess hs _
  case store =>
    by_cases hw : busInWindow s.params.base addr bytes.length
    · rw [decodeAccess, if_pos hw]
      exact exec_decodeDesc_write_bad _ hs (by omega) (by omega) (by omega)
    · rw [decodeAccess, if_neg hw]
      exact exec_badAccess hs _

/-! ### A write to CMD (R193, R208) -/

/-- A word that is none of the five command words raises the fault, whichever of its bytes is at fault. -/
theorem State.command_illegal (s : State) {v : Word} (h : v.toNat = 0 ∨ 6 ≤ v.toNat) :
    s.command v = s.raise .illegalCommand := by
  unfold State.command
  split
  case isFalse => rfl
  case isTrue hhigh =>
    split
    case h_6 => rfl
    all_goals
      rename_i hlow
      obtain rfl := word_eq_of_low_byte hhigh hlow
      exact absurd h (by decide)

theorem instrIsHost_decodeCmd (w : Word) : instrIsHost (decodeCmd w) = true := by
  unfold decodeCmd
  split <;> rfl

/-- The write of a word to CMD is the step of the instruction the word decodes to, which is that write itself for a word
that is no command (log 15). -/
theorem exec_wrCmd_eq_exec_decodeCmd (w : Word) (s : State) : exec (.wrCmd w) s = exec (decodeCmd w) s := by
  unfold decodeCmd
  split <;> rfl

/-- Settles O28: whether or not the word is a command, its write is a HOST step, and so completes. -/
theorem wrCmdPerformsTheCommand : Obligations.WrCmdPerformsTheCommand := by
  intro s
  refine ⟨fun w i hs _ _ hd => ?command, rfl, rfl, rfl, rfl, rfl, fun v hs hv => ?illegal⟩
  case command =>
    cases hd
    have hexec := exec_of_hostReady (instrIsHost_decodeCmd w) hs
    exact ⟨_, (exec_wrCmd_eq_exec_decodeCmd w s).trans hexec, hexec⟩
  case illegal => rw [exec_of_hostReady rfl hs, bodyOf, State.command_illegal s hv, State.raise_of_ok _ hs.1]

/-! ### INIT (R194) -/

section
variable {s : State}

theorem State.initCmd_rejected (ht : s.tstate = .asyncRx ∨ s.tstate = .asyncTx) :
    s.initCmd = { s with lastResult := .rejected } := if_pos ht

theorem State.initCmd_selfTest (hrx : s.tstate ≠ .asyncRx) (htx : s.tstate ≠ .asyncTx) :
    s.initCmd =
      { s.afterChip .selfTest with tstate := if s.chipGood then .idle else .faulty, lastResult := .ok } :=
  if_neg (not_or_intro hrx htx)

/-- A self test is answered PASS or FAIL (10_state R50). -/
theorem chipAnswer_selfTest (good : Bool) : chipAnswer .selfTest good = if good = true then .pass else .fail := by
  cases good <;> rfl

end

/-- Settles O34. -/
theorem initOutcomes : Obligations.InitOutcomes := by
  intro s hs
  refine ⟨fun ht => ?_, fun hrx htx => ?_⟩ <;> rw [exec_of_hostReady rfl hs, bodyOf]
  · rw [State.initCmd_rejected ht]
  · rw [State.initCmd_selfTest hrx htx, State.afterChip, chipAnswer_selfTest]

/-! ### Host slots that wait (R191) -/

theorem hostStatement_agenda {s u : State} (h : (hostStatement s).Gives u) : u.agenda = s.agenda := by
  unfold hostStatement at h
  split at h
  case h_1 | h_2 => rw [fetchPacket_gives h]
  all_goals
    rcases h with h | h | ⟨i, x, h⟩ <;> cases h
    rfl

theorem fetchTurn_agenda {t : Turn} {s u : State} (h : (fetchTurn t s).Gives u) : u.agenda = s.agenda := by
  cases t with
  | host =>
    simp only [fetchTurn] at h
    split at h
    · rcases h with h | h | ⟨i, x, h⟩ <;> cases h
      rfl
    · exact hostStatement_agenda h
  | timerDma | feeder | fall k | rise k =>
    rcases h with h | h | ⟨i, x, h⟩ <;> cases h
    rfl

/-- A fetch takes the slot that is ready from the agenda, and nothing where none is. -/
theorem fetch_agenda {s u : State} (h : (fetch s).Gives u) :
    u.agenda = ((takeReady s.busy s.agenda).map Prod.snd).getD s.agenda := by
  unfold fetch at h
  split at h <;> rename_i hready <;> rw [hready]
  · rw [fetchPacket_gives h]
    rfl
  · exact fetchTurn_agenda h
  · exact fetchTurn_agenda (s := { s with turns := s.turns + 1 }) h

/-- No step but its fetch changes the agenda. -/
theorem step_agenda {s t : State} (h : step s = .next t) : ∃ u, (fetch s).Gives u ∧ t.agenda = u.agenda := by
  unfold step stepOnce at h
  split at h
  case isTrue => cases h
  case isFalse =>
    split at h
    case h_1 i u x hu =>
      obtain ⟨w, hw, rfl | ⟨y, -, -, rfl⟩⟩ := latchRead_next h
      all_goals exact ⟨u, .inr (.inr ⟨i, x, hu⟩), (exec_carries hw).agenda⟩
    case h_2 u hu =>
      cases h
      exact ⟨t, .inr (.inl hu), rfl⟩
    case h_3 u hu =>
      cases h
      exact ⟨t, .inl hu, rfl⟩
    case h_4 => cases h

/-- Settles O11: the slot that is ready stands behind the one that waits, or there is none and the agenda stays. -/
theorem busyHostAccessKeepsItsPlace : Obligations.BusyHostAccessKeepsItsPlace := by
  intro s t x rest hb ha hx h
  obtain ⟨u, hu, ht⟩ := step_agenda h
  rw [ht, fetch_agenda hu, hb, ha, takeReady_waits rest hx]
  cases takeReady true rest with
  | none => exact ⟨rest, rfl⟩
  | some r => exact ⟨r.2, rfl⟩

end Sys2Proof.Machine
end

section
/-! PROOFS. The statement of spec/60_exceptions.md: after a fault the machine and every meaning have stopped. -/

namespace Sys2Proof.Machine

theorem step_after_fault {s : State} (h : s.fault = true) : step s = .fault (.stopped s.faultCode) := if_pos h

theorem exec_after_fault (i : Instr) {s : State} (h : s.fault = true) : exec i s = .fault (.stopped s.faultCode) := by
  rw [exec_eq_takeStep]
  exact takeStep_fault h

/-- Settles O10: the fault bit is the first thing that the step and every meaning look at. -/
theorem noStepAfterAFault : Obligations.NoStepAfterAFault :=
  fun _ h => ⟨step_after_fault h, fun i => exec_after_fault i h⟩

end Sys2Proof.Machine
end

section
/-! PROOFS. The statement of spec/70_reset_and_hazards.md: where UPDATE is held, the feeder has a step that makes progress.
It rests on what a pull moves: the stream's position, or the fill's end. -/

namespace Sys2Proof.Machine

/-! ### The stream position and the end of a fill (R146 to R149) -/

@[simp] theorem State.arm_encPos (s : State) : s.arm.encPos = s.encPos := by
  unfold State.arm
  dsimp only
  split <;> simp [State.armTimer]

@[simp] theorem State.arm_fillActive (s : State) : s.arm.fillActive = s.fillActive := by
  unfold State.arm
  dsimp only
  split <;> simp [State.armTimer]

@[simp] theorem State.finishFill_encPos (s : State) : s.finishFill.encPos = s.encPos := by
  unfold State.finishFill
  split <;> simp

@[simp] theorem State.finishFill_fillActive (s : State) : s.finishFill.fillActive = false := by
  unfold State.finishFill
  split <;> simp

theorem State.writeZero_encPos (s : State) : s.writeZero.encPos = s.encPos := s.putZero.finishFill_encPos

theorem State.writeZero_fillActive (s : State) : s.writeZero.fillActive = false := s.putZero.finishFill_fillActive

theorem State.writeValue_encPos (s : State) (v : Word) : (s.writeValue v).encPos = s.encPos := by
  unfold State.writeValue
  dsimp only
  split
  · exact (s.putValue v).finishFill_encPos
  · rfl

/-- Only `pull()` moves the stream position: what a pull does with the generator's result keeps it. -/
theorem State.applyGen_encPos (s : State) (r : GenResult) : (s.applyGen r).encPos = s.encPos := by
  cases r with
  | skip g => rfl
  | bad => exact s.raise_encPos _
  | emit v g =>
    by_cases hv : v = 0
    · rw [hv, State.applyGen_emit_zero]
      exact (s.setGen g).writeZero_encPos
    · rw [State.applyGen_emit_run s g hv]
      exact (s.setGen g).writeValue_encPos v

/-- A pull takes the next event, or ends the fill where a reset is pending (40_normalizer R111, R112). -/
theorem State.pullStep_progress (s : State) :
    s.pullStep.encPos = s.encPos + 1 ∨ s.pullStep.fillActive = false := by
  by_cases hm : s.mwState = .resetPending
  · rw [State.pullStep_of_resetPending hm]
    exact .inr s.writeZero_fillActive
  · rw [State.pullStep_of_event hm]
    exact .inl (s.pulled.applyGen_encPos _)

/-! ### The hold rule and the feeder (R267) -/

/-- With no fill running, a half is dirty only by its request. -/
theorem State.request_of_needsRefill {s : State} (ha : s.fillActive = false) (hn : s.needsRefill = true) :
    s.htPend = true ∨ s.tcPend = true := by
  simp only [State.needsRefill_iff, ha, Bool.false_eq_true, false_and, or_false] at hn
  exact hn.imp And.right And.right

/-- Settles O59: with a fill running, PULL makes progress; with none, the dirty half is one that a request is pending
for, and REFILL_BEGIN takes it. -/
theorem heldUpdateHasAnEnabledFeeder : Obligations.HeldUpdateHasAnEnabledFeeder := by
  intro s hf ht _ _ _ hn
  cases ha : s.fillActive
  case false =>
    have he : enabledOf .refillBegin s = true :=
      s.refillEnabled_iff.mpr ⟨ht, ha, State.request_of_needsRefill ha hn⟩
    exact .inl ⟨rfl, s.refillBegin, exec_of_enabled hf he, rfl⟩
  case true =>
    have he : enabledOf .pull s = true := ha
    exact .inr ⟨rfl, s.pullStep, exec_of_enabled hf he, s.pullStep_progress⟩

end Sys2Proof.Machine
end
